-- ==== Sys2Proof/Word.lean ====
section
/-! DEFINITION. The word types of the hart (00_scope.md R2, R4): every CSR value, general register and address is 32 bits
wide, the counters are 64 bits wide, memory is byte-addressed. -/

namespace Sys2Proof

/-- A 32-bit value: XLEN = 32 (R4). -/
abbrev Word := BitVec 32

/-- A 64-bit counter value (R4). -/
abbrev DWord := BitVec 64

/-- One byte of memory (R160). -/
abbrev Byte := BitVec 8

/-- A general-register number, the 5-bit `rs1` or `rd` field of an instruction (R191). -/
abbrev RegNum := BitVec 5

/-- A CSR address, the 12-bit `csr` field of an instruction (R191). -/
abbrev CsrAddr := BitVec 12

end Sys2Proof
end

