-- ==== Sys2Proof/Machine/Bits.lean ====
section
/-! DEFINITION. Bit-field and byte-order helpers: bit slices, flag placement (00_scope.md R9, R10) and the little-endian
layout of a 32-bit instruction word (20_memory.md R161). -/

namespace Sys2Proof.Machine

/-- One flag at bit position `n` of a word. -/
def bitAt (n : Nat) (b : Bool) : Word :=
  if b then 1#32 <<< n else 0#32

/-- The word whose listed bits hold the listed flags and whose other bits are 0. -/
def wordOfBits : List (Nat × Bool) → Word
  | [] => 0
  | (n, b) :: rest => bitAt n b ||| wordOfBits rest

/-- The low 32-bit word of a 64-bit counter (R10). -/
def lowWord (v : DWord) : Word := v.extractLsb' 0 32

/-- The high 32-bit word of a 64-bit counter (R10). -/
def highWord (v : DWord) : Word := v.extractLsb' 32 32

/-- A counter with its low word replaced. -/
def withLowWord (v : DWord) (w : Word) : DWord := highWord v ++ w

/-- A counter with its high word replaced. -/
def withHighWord (v : DWord) (w : Word) : DWord := w ++ lowWord v

/-- The 64-bit mask of the `width` lowest bits. -/
def widthMask (width : Nat) : DWord := BitVec.ofNat 64 (2 ^ width - 1)

/-- Byte `j` of a word, bits 8j+7 : 8j. -/
def byteOf (w : Word) (j : Nat) : Byte := w.extractLsb' (8 * j) 8

/-- The four bytes of a word as the memory holds them, lowest address first (R161). -/
def bytesOfWord (w : Word) : List Byte := [byteOf w 0, byteOf w 1, byteOf w 2, byteOf w 3]

/-- The word that four bytes make, the first the least significant (R161). -/
def wordOfBytes (b0 b1 b2 b3 : Byte) : Word := b3 ++ b2 ++ b1 ++ b0

/-- The low halfword of a word. -/
def lowHalf (w : Word) : BitVec 16 := w.extractLsb' 0 16

end Sys2Proof.Machine
end

