-- ==== Sys2Proof/Syntax.lean ====
section
/-! DEFINITION. The syntax of the eight in-scope instructions: one constructor per row of spec/opcode_table.json
(30_encoding.md R194), operands in the order of the assembler syntax (R199). -/

namespace Sys2Proof

/-- The instructions that touch the CSR file (R7). -/
inductive Instr where
  /-- `csrrw rd, csr, rs1` (R222). -/
  | csrrw (rd : RegNum) (csr : CsrAddr) (rs1 : RegNum)
  /-- `csrrs rd, csr, rs1` (R223). -/
  | csrrs (rd : RegNum) (csr : CsrAddr) (rs1 : RegNum)
  /-- `csrrc rd, csr, rs1` (R224). -/
  | csrrc (rd : RegNum) (csr : CsrAddr) (rs1 : RegNum)
  /-- `csrrwi rd, csr, uimm` (R225). -/
  | csrrwi (rd : RegNum) (csr : CsrAddr) (uimm : BitVec 5)
  /-- `csrrsi rd, csr, uimm` (R226). -/
  | csrrsi (rd : RegNum) (csr : CsrAddr) (uimm : BitVec 5)
  /-- `csrrci rd, csr, uimm` (R227). -/
  | csrrci (rd : RegNum) (csr : CsrAddr) (uimm : BitVec 5)
  /-- `mret` (R250). -/
  | mret
  /-- `wfi` (R252). -/
  | wfi
deriving DecidableEq, Repr

/-! The pseudo-instructions of R201: other names of the words of a core instruction. The CSR-specific ones (`rdcycle`, `frcsr`,
`fsrm` and their kin) are these at a fixed CSR address. -/

/-- `csrr rd, csr`: read, not a write access (R201). -/
def Instr.csrr (rd : RegNum) (csr : CsrAddr) : Instr := .csrrs rd csr 0

/-- `csrw csr, rs`: write (R201). -/
def Instr.csrw (csr : CsrAddr) (rs : RegNum) : Instr := .csrrw 0 csr rs

/-- `csrs csr, rs`: set bits (R201). -/
def Instr.csrs (csr : CsrAddr) (rs : RegNum) : Instr := .csrrs 0 csr rs

/-- `csrc csr, rs`: clear bits (R201). -/
def Instr.csrc (csr : CsrAddr) (rs : RegNum) : Instr := .csrrc 0 csr rs

/-- `csrwi csr, uimm`: write immediate (R201). -/
def Instr.csrwi (csr : CsrAddr) (uimm : BitVec 5) : Instr := .csrrwi 0 csr uimm

/-- `csrsi csr, uimm`: set bits by immediate (R201). -/
def Instr.csrsi (csr : CsrAddr) (uimm : BitVec 5) : Instr := .csrrsi 0 csr uimm

/-- `csrci csr, uimm`: clear bits by immediate (R201). -/
def Instr.csrci (csr : CsrAddr) (uimm : BitVec 5) : Instr := .csrrci 0 csr uimm

end Sys2Proof
end

