-- ==== Sys2Proof/Decode.lean ====
section
/-! DEFINITION. Decoding and encoding of the eight in-scope instructions (30_encoding.md R190 to R196). Decoding is total and
refuses every other word by name; a refusal is "not an in-scope instruction", never "the chip raises an exception" (R196). -/

namespace Sys2Proof

open Machine

/-- Why a byte sequence is not one of the eight instructions. -/
inductive DecodeError where
  /-- Fewer than four bytes. -/
  | truncated
  /-- Bits 1:0 are not 11: a compressed instruction (R190). -/
  | compressed
  /-- The major opcode is not SYSTEM (R196). -/
  | otherOpcode
  /-- SYSTEM with `funct3 = 100`, reserved (R196). -/
  | reservedFunct3
  /-- SYSTEM with `funct3 = 000` and other fixed bits than those of `mret` and `wfi` (R196). -/
  | otherFunct12
deriving DecidableEq, Repr

/-- The major opcode SYSTEM, bits 6:0 (R191). -/
def opSystem : BitVec 7 := 0b1110011

/-- The `rd` field, bits 11:7 (R191). -/
def fieldRd (w : Word) : RegNum := w.extractLsb' 7 5

/-- The `rs1` or `uimm` field, bits 19:15 (R191). -/
def fieldRs1 (w : Word) : RegNum := w.extractLsb' 15 5

/-- The `funct3` field, bits 14:12 (R191). -/
def fieldFunct3 (w : Word) : BitVec 3 := w.extractLsb' 12 3

/-- The `csr` or `funct12` field, bits 31:20 (R191). -/
def fieldCsr (w : Word) : CsrAddr := w.extractLsb' 20 12

/-- The whole word of `mret` (R194). -/
def mretWord : Word := 0x30200073

/-- The whole word of `wfi` (R194). -/
def wfiWord : Word := 0x10500073

/-- The instruction a 32-bit word encodes (R194). -/
def decode (w : Word) : Except DecodeError Instr :=
  if w.extractLsb' 0 2 ≠ 0b11#2 then .error .compressed
  else if w.extractLsb' 0 7 ≠ opSystem then .error .otherOpcode
  else
    match (fieldFunct3 w).toNat with
    | 0 => if w = mretWord then .ok .mret else if w = wfiWord then .ok .wfi else .error .otherFunct12
    | 1 => .ok (.csrrw (fieldRd w) (fieldCsr w) (fieldRs1 w))
    | 2 => .ok (.csrrs (fieldRd w) (fieldCsr w) (fieldRs1 w))
    | 3 => .ok (.csrrc (fieldRd w) (fieldCsr w) (fieldRs1 w))
    | 5 => .ok (.csrrwi (fieldRd w) (fieldCsr w) (fieldRs1 w))
    | 6 => .ok (.csrrsi (fieldRd w) (fieldCsr w) (fieldRs1 w))
    | 7 => .ok (.csrrci (fieldRd w) (fieldCsr w) (fieldRs1 w))
    | _ => .error .reservedFunct3

/-- The instruction the bytes at an address encode, least significant byte first (R190, R161). -/
def decodeBytes : List Byte → Except DecodeError Instr
  | b0 :: b1 :: b2 :: b3 :: _ => decode (wordOfBytes b0 b1 b2 b3)
  | _ => .error .truncated

/-- An I-type SYSTEM word from its fields (R191). -/
def systemWord (csr : CsrAddr) (rs1 : RegNum) (funct3 : BitVec 3) (rd : RegNum) : Word :=
  csr ++ rs1 ++ funct3 ++ rd ++ opSystem

/-- The word that encodes an instruction (R194). -/
def encode : Instr → Word
  | .csrrw rd csr rs1 => systemWord csr rs1 0b001 rd
  | .csrrs rd csr rs1 => systemWord csr rs1 0b010 rd
  | .csrrc rd csr rs1 => systemWord csr rs1 0b011 rd
  | .csrrwi rd csr uimm => systemWord csr uimm 0b101 rd
  | .csrrsi rd csr uimm => systemWord csr uimm 0b110 rd
  | .csrrci rd csr uimm => systemWord csr uimm 0b111 rd
  | .mret => mretWord
  | .wfi => wfiWord

/-- The instruction word that the table's bits `w` stand for: bits at and above `nbits` are 0. -/
def tableWord (nbits w : Nat) : Word := BitVec.ofNat 32 (w % 2 ^ nbits)

/-- The instruction the decoder reads from the bytes, as the memory holds them, of a word numbered as
spec/opcode_table.json numbers its bits. -/
def decodeTableWord (nbits w : Nat) : Option Instr :=
  match decodeBytes (bytesOfWord (tableWord nbits w)) with
  | .ok i => some i
  | .error _ => none

end Sys2Proof
end

