-- ==== Sys2Proof/Config.lean ====
section
/-! DEFINITION. What an implementation fixes before synthesis (`Cfg`, 00_scope.md R5), what the environment supplies at each
step (`StepInput`, R15), and the free values: opaque constants that no proof can evaluate. -/

namespace Sys2Proof

/-- The 19 interrupt sources (60_exceptions.md R272). -/
inductive IrqSource where
  /-- Machine software interrupt. -/
  | msi
  /-- Machine timer interrupt. -/
  | mti
  /-- Machine external interrupt. -/
  | mei
  /-- Fast interrupt channel `n`. -/
  | firq (n : Fin 16)
deriving DecidableEq, Repr

/-- Every interrupt source once, in the order the hardware is believed to serve them (U8; PRESUMED: log 9). -/
def IrqSource.all : List IrqSource :=
  (List.finRange 16).map .firq ++ [.mei, .msi, .mti]

/-- What the `A` field of a PMP configuration byte reads back when an address-matching mode that synthesis left out is
written: `Cfg.pmp_legal_a` of R5 as data, one value for each mode that can be left out (R104, D18). -/
structure ExcludedModes where
  tor : BitVec 2 := 0
  na4 : BitVec 2 := 0
  napot : BitVec 2 := 0
deriving DecidableEq, Repr

/-- The sub-extensions that only set an `mxisa` bit (R5, 11_state_pmp_counters_info.md R138). -/
structure SubExtensions where
  zifencei : Bool := false
  zmmul : Bool := false
  zxcfu : Bool := false
  zkt : Bool := false
  zicond : Bool := false
  zbkx : Bool := false
  zknd : Bool := false
  zkne : Bool := false
  zknh : Bool := false
  zbkb : Bool := false
  zbkc : Bool := false
  zkn : Bool := false
  zksh : Bool := false
  zksed : Bool := false
  zks : Bool := false
  zba : Bool := false
  zbb : Bool := false
  zbs : Bool := false
  zaamo : Bool := false
  zalrsc : Bool := false
  zcb : Bool := false
  zibi : Bool := false
  zimop : Bool := false
deriving DecidableEq, Repr

/-- The configuration record of R5, as plain data. -/
structure Cfg where
  extA : Bool := false
  extB : Bool := false
  extC : Bool := false
  extE : Bool := false
  extM : Bool := false
  extU : Bool := false
  extZicsr : Bool := true
  extZfinx : Bool := false
  extZicntr : Bool := false
  extZihpm : Bool := false
  extSmpmp : Bool := false
  extSdext : Bool := false
  extSdtrig : Bool := false
  sub : SubExtensions := {}
  pmpNumRegions : Nat := 0
  /-- In bytes; 4 is the smallest granularity (R107). -/
  pmpMinGranularity : Nat := 4
  pmpTorModeEn : Bool := false
  pmpNapModeEn : Bool := false
  hpmNumCnts : Nat := 0
  hpmCntWidth : Nat := 0
  hartId : Word := 0
  hwVersion : Word := 0
  cpuTraceEn : Bool := false
  cpuConsttBrEn : Bool := false
  cpuRfHwRstEn : Bool := false
  cpuFastMulEn : Bool := false
  cpuFastShiftEn : Bool := false
  isSim : Bool := false
  bootAddr : Word := 0
  /-- `IRQ_PRIORITY`: the sources, the most urgent first (R278). -/
  irqPriority : List IrqSource := IrqSource.all
  pmpLegalA : ExcludedModes := {}
  /-- `pmp_addr_legal`: the address field that a write of `pmpaddr` leaves at a granularity other than 4 bytes, as the finite map
  of a function on 32-bit values; a value it does not list leaves its own bits 29:0 (R107, D19; log 15). -/
  pmpAddrLegal : List (Word × BitVec 30) := []
  mcountinhibitAsPrinted : Bool := false
deriving DecidableEq, Repr

/-- The request lines of the 19 interrupt sources (10_state.md R70). -/
structure IrqLines where
  msi : Bool := false
  mti : Bool := false
  mei : Bool := false
  firq : BitVec 16 := 0
deriving DecidableEq, Repr, Inhabited

/-- The trigger module registers: names only in the spec (11 R140). -/
structure TriggerRegs where
  tselect : Word := 0
  tdata1 : Word := 0
  tdata2 : Word := 0
  tinfo : Word := 0
deriving DecidableEq, Repr, Inhabited

/-- The debug mode registers: names only in the spec (11 R141). -/
structure DebugRegs where
  dcsr : Word := 0
  dpc : Word := 0
  dscratch0 : Word := 0
deriving DecidableEq, Repr, Inhabited

/-- The ten exception causes of 60_exceptions.md R271. -/
inductive ExcCause where
  | instrAddrMisaligned
  | instrAccessFault
  | illegalInstruction
  | breakpoint
  | loadAddrMisaligned
  | loadAccessFault
  | storeAddrMisaligned
  | storeAccessFault
  | ecallFromU
  | ecallFromM
deriving DecidableEq, Repr, Inhabited

/-- One data access of an out-of-scope instruction (20_memory.md R172). -/
inductive MemAccess where
  /-- A load of `n` bytes at `addr`. -/
  | load (addr : Word) (n : Nat)
  /-- A store of the bytes at `addr` and up. -/
  | store (addr : Word) (bytes : List Byte)
deriving DecidableEq, Repr, Inhabited

/-- What one out-of-scope instruction does (R14, R15, U15): the FPU flags it accrues, the exception it raises of its own if it
raises one, the data accesses it makes, and, where it raises no exception, where the program counter goes and which registers it
writes. -/
structure ForeignEffect where
  fflags : BitVec 5 := 0
  exception : Option ExcCause := none
  accesses : List MemAccess := []
  nextPc : Word := 0
  regWrites : List (RegNum × Word) := []
deriving DecidableEq, Repr, Inhabited

/-- What a reset of the running hart leaves where the spec gives no value (70_reset_and_hazards.md R323; log 33). -/
structure ResetValues where
  /-- The general registers. -/
  regs : Vector Word 32 := Vector.replicate 32 0
  /-- The bytes of memory that have a value. -/
  bytes : List (Word × Byte) := []
deriving DecidableEq, Repr, Inhabited

/-- The inputs of one step that are neither state nor configuration: the draws of R15. -/
structure StepInput where
  /-- The hart is reset in this step (70_reset_and_hazards.md R320), and what the reset leaves. -/
  reset : Option ResetValues := none
  /-- The interrupt request lines at the boundary before this step (R71). -/
  irq : IrqLines := {}
  /-- Whether the hart takes a takeable interrupt at this boundary (R280, D48). -/
  takeIrq : Bool := false
  /-- Whether a sleeping hart sleeps on through this step (R253). -/
  sleepOn : Bool := false
  /-- Whether a `wfi` that runs in this step enters sleep mode (R252). -/
  sleep : Bool := false
  /-- Active clock cycles since the last step (R112, D23). -/
  cycles : Nat := 0
  /-- Increments of the monitors 3 .. 15 since the last step (R124, D46). -/
  hpm : Vector Nat 13 := Vector.replicate 13 0
  /-- `mtval` after an interrupt or an exception whose value the spec leaves open (R284). -/
  mtval : Word := 0
  /-- `mtinst` after an interrupt, or after an exception of an instruction whose word is not known (R284; log 10, log 24). -/
  mtinst : Word := 0
  /-- From which the legal value comes that `mtvec` takes when an illegal value is written (R51). -/
  mtvec : Word := 0
  /-- Whether an instruction whose fetch failed counts as executed (R114). -/
  fetchFaultCounts : Bool := false
  trigger : TriggerRegs := {}
  debugRegs : DebugRegs := {}
  foreign : ForeignEffect := {}
deriving DecidableEq, Repr, Inhabited

/-- FREE VALUE: the input of step number `n` when the state schedules none (R15). -/
opaque Config.freeInput : Nat → StepInput

/-- FREE VALUE: the 32-bit equivalent of a compressed instruction, not in the spec (10_state.md R67, N12). -/
opaque Config.decompress : BitVec 16 → Word

/-- FREE VALUE: what `pmpaddr` bits 29:0 read at a granularity other than 4 bytes, from mode and field (R107). -/
opaque Config.pmpAddrRead : Nat → BitVec 2 → BitVec 30 → BitVec 30

/-- FREE VALUE: what mode NA4 reads back at a granularity other than 4 bytes, where that is a legal value (D19, U9). -/
opaque Config.pmpNa4Legal : Nat → BitVec 2

/-- FREE VALUE: whether a region matches a word address at a granularity other than 4 bytes, from the granularity, the mode,
the address field of the region below, its own address field and the word address (20_memory.md R171). -/
opaque Config.pmpMatches : Nat → BitVec 2 → BitVec 30 → BitVec 30 → BitVec 30 → Bool

/-- The configuration of 95_test_vectors.md V2, which State.reset uses (DESIGN CHOICE: log 1, boot address: log 2). -/
def Cfg.reference : Cfg where
  extC := true
  extM := true
  extU := true
  extZfinx := true
  extZicntr := true
  extZihpm := true
  extSmpmp := true
  pmpNumRegions := 4
  pmpTorModeEn := true
  pmpNapModeEn := true
  hpmNumCnts := 2
  hpmCntWidth := 40
  hwVersion := 0x01020312
  bootAddr := 0x00001000

end Sys2Proof
end

