-- ==== Sys2Proof/Machine/CsrMap.lean ====
section
/-! DEFINITION. The CSR address space (10_state.md R24 to R29): the 99 implemented registers, their addresses, access classes
and conditions of existence. Address misprints of the source are resolved as 90_conflicts.md C1, C2 and C3 say. -/

namespace Sys2Proof.Machine

/-- The CSRs of the table of R24. Monitors are counted from 0, so `mhpmevent n` is `mhpmevent<n + 3>`. -/
inductive Csr where
  | fflags | frm | fcsr
  | mstatus | misa | mie | mtvec | mcounteren | menvcfg | mstatush | menvcfgh
  | mcountinhibit
  | mhpmevent (n : Fin 13)
  | mscratch | mepc | mcause | mtval | mip | mtinst
  | pmpcfg (k : Fin 4)
  | pmpaddr (i : Fin 16)
  | tselect | tdata1 | tdata2 | tinfo
  | dcsr | dpc | dscratch0
  | mcycle | minstret
  | mhpmcounter (n : Fin 13)
  | mcycleh | minstreth
  | mhpmcounterh (n : Fin 13)
  | mxcsr
  | cycle | instret | cycleh | instreth
  | mvendorid | marchid | mimpid | mhartid | mconfigptr
  | mxisa
deriving DecidableEq, Repr

/-- The access classes of 00_scope.md R12. -/
inductive AccessClass where
  /-- User mode, read-write. -/
  | urw
  /-- Machine mode, read-write (some ignore writes, R29). -/
  | mrw
  /-- User mode, read-only. -/
  | uro
  /-- Machine mode, read-only. -/
  | mro
  /-- Debug mode, read-write. -/
  | drw
deriving DecidableEq, Repr

/-- The address of a CSR (R24). -/
def Csr.addr : Csr → CsrAddr
  | .fflags => 0x001
  | .frm => 0x002
  | .fcsr => 0x003
  | .mstatus => 0x300
  | .misa => 0x301
  | .mie => 0x304
  | .mtvec => 0x305
  | .mcounteren => 0x306
  | .menvcfg => 0x30a
  | .mstatush => 0x310
  | .menvcfgh => 0x31a
  | .mcountinhibit => 0x320
  | .mhpmevent n => BitVec.ofNat 12 (0x323 + n.val)
  | .mscratch => 0x340
  | .mepc => 0x341
  | .mcause => 0x342
  | .mtval => 0x343
  | .mip => 0x344
  | .mtinst => 0x34a
  | .pmpcfg k => BitVec.ofNat 12 (0x3a0 + k.val)
  | .pmpaddr i => BitVec.ofNat 12 (0x3b0 + i.val)
  | .tselect => 0x7a0
  | .tdata1 => 0x7a1
  | .tdata2 => 0x7a2
  | .tinfo => 0x7a4
  | .dcsr => 0x7b0
  | .dpc => 0x7b1
  | .dscratch0 => 0x7b2
  | .mcycle => 0xb00
  | .minstret => 0xb02
  | .mhpmcounter n => BitVec.ofNat 12 (0xb03 + n.val)
  | .mcycleh => 0xb80
  | .minstreth => 0xb82
  | .mhpmcounterh n => BitVec.ofNat 12 (0xb83 + n.val)
  | .mxcsr => 0xbc0
  | .cycle => 0xc00
  | .instret => 0xc02
  | .cycleh => 0xc80
  | .instreth => 0xc82
  | .mvendorid => 0xf11
  | .marchid => 0xf12
  | .mimpid => 0xf13
  | .mhartid => 0xf14
  | .mconfigptr => 0xf15
  | .mxisa => 0xfc0

/-- The CSRs of R24, once each. -/
def Csr.all : List Csr :=
  [.fflags, .frm, .fcsr, .mstatus, .misa, .mie, .mtvec, .mcounteren, .menvcfg, .mstatush, .menvcfgh, .mcountinhibit]
    ++ (List.finRange 13).map .mhpmevent
    ++ [.mscratch, .mepc, .mcause, .mtval, .mip, .mtinst]
    ++ (List.finRange 4).map .pmpcfg
    ++ (List.finRange 16).map .pmpaddr
    ++ [.tselect, .tdata1, .tdata2, .tinfo, .dcsr, .dpc, .dscratch0, .mcycle, .minstret]
    ++ (List.finRange 13).map .mhpmcounter
    ++ [.mcycleh, .minstreth]
    ++ (List.finRange 13).map .mhpmcounterh
    ++ [.mxcsr, .cycle, .instret, .cycleh, .instreth, .mvendorid, .marchid, .mimpid, .mhartid, .mconfigptr, .mxisa]

/-- The CSR that an address names, if the table of R24 lists the address (R25: every other address is unimplemented). -/
def csrOfAddr (a : CsrAddr) : Option Csr :=
  Csr.all.find? fun c => c.addr == a

/-- The access class of a CSR (R24). -/
def Csr.cls : Csr → AccessClass
  | .fflags | .frm | .fcsr => .urw
  | .cycle | .instret | .cycleh | .instreth => .uro
  | .mvendorid | .marchid | .mimpid | .mhartid | .mconfigptr | .mxisa => .mro
  | .dcsr | .dpc | .dscratch0 => .drw
  | _ => .mrw

/-- The condition on the configuration under which a CSR exists (R24, R26). -/
def Csr.existsIn (c : Cfg) : Csr → Bool
  | .fflags | .frm | .fcsr => c.extZfinx
  | .mcounteren | .menvcfg | .menvcfgh => c.extU
  | .mhpmevent _ | .mhpmcounter _ | .mhpmcounterh _ => c.extZihpm
  | .pmpcfg _ | .pmpaddr _ => c.extSmpmp
  | .tselect | .tdata1 | .tdata2 | .tinfo => c.extSdtrig
  | .dcsr | .dpc | .dscratch0 => c.extSdext
  | .mcycle | .minstret | .mcycleh | .minstreth => c.extZicntr
  | .cycle | .instret | .cycleh | .instreth => c.extZicntr
  | _ => c.extZicsr

/-- A class whose CSRs raise an exception on a write access (R28). -/
def AccessClass.readOnly : AccessClass → Bool
  | .uro | .mro => true
  | .urw | .mrw | .drw => false

/-- The name an assembler accepts for a CSR, the source's "Name [ASM]" (R24, 30_encoding.md R199). -/
def Csr.asmName : Csr → String
  | .fflags => "fflags"
  | .frm => "frm"
  | .fcsr => "fcsr"
  | .mstatus => "mstatus"
  | .misa => "misa"
  | .mie => "mie"
  | .mtvec => "mtvec"
  | .mcounteren => "mcounteren"
  | .menvcfg => "menvcfg"
  | .mstatush => "mstatush"
  | .menvcfgh => "menvcfgh"
  | .mcountinhibit => "mcountinhibit"
  | .mhpmevent n => "mhpmevent" ++ toString (n.val + 3)
  | .mscratch => "mscratch"
  | .mepc => "mepc"
  | .mcause => "mcause"
  | .mtval => "mtval"
  | .mip => "mip"
  | .mtinst => "mtinst"
  | .pmpcfg k => "pmpcfg" ++ toString k.val
  | .pmpaddr i => "pmpaddr" ++ toString i.val
  | .tselect => "tselect"
  | .tdata1 => "tdata1"
  | .tdata2 => "tdata2"
  | .tinfo => "tinfo"
  | .dcsr => "dcsr"
  | .dpc => "dpc"
  | .dscratch0 => "dscratch0"
  | .mcycle => "mcycle"
  | .minstret => "minstret"
  | .mhpmcounter n => "mhpmcounter" ++ toString (n.val + 3)
  | .mcycleh => "mcycleh"
  | .minstreth => "minstreth"
  | .mhpmcounterh n => "mhpmcounter" ++ toString (n.val + 3) ++ "h"
  | .mxcsr => "mxcsr"
  | .cycle => "cycle"
  | .instret => "instret"
  | .cycleh => "cycleh"
  | .instreth => "instreth"
  | .mvendorid => "mvendorid"
  | .marchid => "marchid"
  | .mimpid => "mimpid"
  | .mhartid => "mhartid"
  | .mconfigptr => "mconfigptr"
  | .mxisa => "mxisa"

/-- The name the core library gives a CSR address in C, the source's "Name [C]"; the debug mode registers have none (R24,
30_encoding.md R200). -/
def Csr.cName (c : Csr) : Option String :=
  match c.cls with
  | .drw => none
  | _ => some ("CSR_" ++ c.asmName.toUpper)

end Sys2Proof.Machine
end

