-- ==== Sys2Proof/Machine/State.lean ====
section
/-! DEFINITION. The state of the hart as plain data: every piece of state the spec gives it (10_state.md,
11_state_pmp_counters_info.md), the reasons a step can stop, and the state after reset (70_reset_and_hazards.md R320 to
R323). -/

namespace Sys2Proof.Machine

/-- The privilege modes (10_state.md R22). -/
inductive Priv where
  /-- Machine mode, encoded 11. -/
  | machine
  /-- User mode, encoded 00. -/
  | user
deriving DecidableEq, Repr, Inhabited

/-- The fields of `mstatus` (R40). MPP names a mode, because only 00 and 11 are legal (R42). -/
structure MStatus where
  mie : Bool
  mpie : Bool
  mpp : Priv
  mprv : Bool
  tw : Bool
deriving DecidableEq, Repr

/-- The fields of `mcause` (R63). -/
structure MCause where
  interrupt : Bool
  code : BitVec 5
deriving DecidableEq, Repr

/-- The writable fields of `mcounteren` (R56). -/
structure MCounteren where
  cy : Bool
  ir : Bool
deriving DecidableEq, Repr

/-- One PMP region: its configuration byte's fields and its address field (11 R100, R102, R107). -/
structure PmpRegion where
  r : Bool := false
  w : Bool := false
  x : Bool := false
  a : BitVec 2 := 0
  l : Bool := false
  addr : BitVec 30 := 0
deriving DecidableEq, Repr, Inhabited

/-- One hardware performance monitor (11 R119): the event selector and the counter, `HPM_CNT_WIDTH` bits of the 64. -/
structure HpmMonitor where
  event : BitVec 12 := 0
  cnt : DWord := 0
deriving DecidableEq, Repr, Inhabited

/-- The state of the machine. -/
structure State where
  /-- The configuration, fixed for the life of the machine (00_scope.md R5; log 1). -/
  cfg : Cfg
  /-- The general registers (10_state.md R20); entry 0 is never read. -/
  x : Vector Word 32
  /-- The address of the instruction to execute (R21). -/
  pc : Word
  /-- The privilege mode (R22). -/
  priv : Priv
  /-- Debug mode (R23). -/
  debugMode : Bool
  /-- Sleep mode (41_trap_return_and_wait.md R253). -/
  sleeping : Bool
  /-- Accrued exception flags (R36). -/
  fflags : BitVec 5
  /-- Dynamic rounding mode (R37). -/
  frm : BitVec 3
  /-- `mstatus` (R40). -/
  mstatus : MStatus
  /-- `mie` (R49). -/
  mie : Word
  /-- `mtvec` (R50). -/
  mtvec : Word
  /-- `mcounteren` (R56). -/
  mcounteren : MCounteren
  /-- `mscratch` (R60). -/
  mscratch : Word
  /-- `mepc` (R61). -/
  mepc : Word
  /-- `mcause` (R63). -/
  mcause : MCause
  /-- `mtval` (R65). -/
  mtval : Word
  /-- `mtinst` (R66). -/
  mtinst : Word
  /-- The pending interrupt requests `mip` shows (R70, R71). -/
  mip : IrqLines
  /-- The PMP regions 0 .. 15 (11 R100). -/
  pmp : Vector PmpRegion 16
  /-- `cnt.cycle` (11 R110). -/
  cycle : DWord
  /-- `cnt.instret` (11 R110). -/
  instret : DWord
  /-- The monitors 3 .. 15 (11 R118). -/
  hpm : Vector HpmMonitor 13
  /-- `mcountinhibit` (11 R126). -/
  mcountinhibit : Word
  /-- The trigger module registers (11 R140; log 6). -/
  trigger : TriggerRegs
  /-- The debug mode registers (11 R141; log 7). -/
  debugRegs : DebugRegs
  /-- The memory space (20_memory.md R160), in the canonical form of `Memory.wf`. -/
  mem : List Host.Cell
  /-- The model's own: the inputs scheduled for the next steps (log 4). -/
  inputs : List StepInput
  /-- The model's own: the number of the next step, which indexes the free inputs (log 4). -/
  stepNo : Nat
  /-- The model's own: the input of the step in progress (log 4). -/
  draw : StepInput
deriving DecidableEq, Repr

/-- Why the machine stops with a fault. -/
inductive Fault where
  /-- Raised by the instruction fetch when the byte at `addr` has never been written. Safe: the hardware reads some value
  there and goes on. -/
  | fetchUnwritten (addr : Nat)
deriving DecidableEq, Repr

/-- Why the model gives a step no meaning. -/
inductive Refusal where
  /-- Raised by an arm of `exec` whose instruction has no meaning yet (no arm of this model). Safe. -/
  | notModelled (mnemonic : String)
  /-- Raised by every step of a hart in debug mode, which the spec says a model refuses (R23, U11). Safe. -/
  | debugMode
  /-- Raised by every step of a configuration without Zicsr, to which the spec gives no meaning (R6, D1). Safe. -/
  | zicsrAbsent
  /-- Raised by an instruction that names one of `x16` .. `x31` with the E extension, a reserved encoding (R20, U14). Safe. -/
  | rv32eRegister
  /-- Raised by a write access to a trigger module register, whose effect is not in the spec (R140, U10). Safe. -/
  | triggerWrite
  /-- Raised by a write access to a debug mode register in debug mode (R141, U11); no run reaches it. Safe. -/
  | debugWrite
deriving DecidableEq, Repr

/-- The mode `mstatus.MPP` holds after reset: 00 with user mode, else hardwired 11 (R42, R321, C15). -/
def resetMpp (c : Cfg) : Priv :=
  if c.extU then .user else .machine

/-- The state right after reset of a machine with configuration `c` (R320 to R323). The general registers are zero (log 3),
the trigger and debug registers are zero (log 6, log 7), memory lists nothing (log 21). -/
def State.resetOf (c : Cfg) : State where
  cfg := c
  x := Vector.replicate 32 0
  pc := c.bootAddr
  priv := .machine
  debugMode := false
  sleeping := false
  fflags := 0
  frm := 0
  mstatus :=
    { mie := false
      mpie := false
      mpp := resetMpp c
      mprv := false
      tw := false }
  mie := 0
  mtvec := 0
  mcounteren :=
    { cy := false
      ir := false }
  mscratch := 0
  mepc := 0
  mcause :=
    { interrupt := false
      code := 0 }
  mtval := 0
  mtinst := 0
  mip := {}
  pmp := Vector.replicate 16 {}
  cycle := 0
  instret := 0
  hpm := Vector.replicate 13 {}
  mcountinhibit := 0
  trigger := {}
  debugRegs := {}
  mem := []
  inputs := []
  stepNo := 0
  draw := {}

/-- The state right after reset, at the reference configuration (log 1). -/
def State.reset : State := State.resetOf Cfg.reference

end Sys2Proof.Machine
end

