-- ==== Sys2Proof/Machine/Flags.lean ====
section
/-! DEFINITION. The only flags of the hart: the floating-point accrued exception flags (10_state.md R35 to R38). The spec gives
the integer instructions no condition codes (40_zicsr_access.md R220). -/

namespace Sys2Proof.Machine

/-- What `fcsr` reads: the rounding mode in bits 7:5 above the flags in bits 4:0 (R38). -/
def fcsrWord (s : State) : Word := (s.frm ++ s.fflags).setWidth 32

/-- The accrued flags of a value written to `fflags` or `fcsr` (R36, R38). -/
def flagsOfWord (v : Word) : BitVec 5 := v.extractLsb' 0 5

/-- The rounding mode of a value written to `frm` (R37). -/
def roundingOfFrm (v : Word) : BitVec 3 := v.extractLsb' 0 3

/-- The rounding mode of a value written to `fcsr` (R38). -/
def roundingOfFcsr (v : Word) : BitVec 3 := v.extractLsb' 5 3

/-- The floating-point unit sets flags and never clears one; it exists with Zfinx only (R36, D34). -/
def accrueFlags (f : BitVec 5) (s : State) : State :=
  if s.cfg.extZfinx then { s with fflags := s.fflags ||| f } else s

end Sys2Proof.Machine
end

