-- ==== Sys2Proof/Machine/CsrRead.lean ====
section
/-! DEFINITION. `CsrRead` (10_state.md R30): the 32-bit value every implemented CSR reads. No read has a side effect. -/

namespace Sys2Proof.Machine

/-- The encoding of a privilege mode (R22). -/
def privBits : Priv → BitVec 2
  | .machine => 0b11
  | .user => 0b00

/-- `mstatus` as it reads (R40). -/
def mstatusWord (m : MStatus) : Word :=
  bitAt 21 m.tw ||| bitAt 17 m.mprv ||| ((privBits m.mpp).setWidth 32 <<< 11) ||| bitAt 7 m.mpie ||| bitAt 3 m.mie

/-- `misa` as it reads: MXL = 01, X set, and the configured extensions (R47). -/
def misaWord (c : Cfg) : Word :=
  0x40800000 ||| wordOfBits
    [(0, c.extA), (1, c.extB), (2, c.extC), (4, c.extE), (8, !c.extE), (12, c.extM), (20, c.extU)]

/-- `mcounteren` as it reads (R56). -/
def mcounterenWord (m : MCounteren) : Word := wordOfBits [(0, m.cy), (2, m.ir)]

/-- `mcause` as it reads (R63). -/
def mcauseWord (m : MCause) : Word := bitAt 31 m.interrupt ||| m.code.setWidth 32

/-- `mip` as it reads: a view of the pending requests (R70). -/
def mipWord (l : IrqLines) : Word :=
  (l.firq.setWidth 32 <<< 16) ||| wordOfBits [(3, l.msi), (7, l.mti), (11, l.mei)]

/-- The configuration byte of a PMP region (11 R102). -/
def pmpCfgByte (p : PmpRegion) : Byte :=
  (wordOfBits [(0, p.r), (1, p.w), (2, p.x), (7, p.l)] ||| (p.a.setWidth 32 <<< 3)).setWidth 8

/-- The state of region `i`; all zero past region 15. -/
def State.region (s : State) (i : Nat) : PmpRegion := s.pmp[i]?.getD {}

/-- The configuration byte that region `i` shows: zero for a region that is not implemented (R101). -/
def cfgByte (s : State) (i : Nat) : Byte :=
  if i < s.cfg.pmpNumRegions then pmpCfgByte (s.region i) else 0

/-- `pmpcfg<k>` as it reads (R101). -/
def pmpcfgWord (s : State) (k : Nat) : Word :=
  cfgByte s (4 * k + 3) ++ cfgByte s (4 * k + 2) ++ cfgByte s (4 * k + 1) ++ cfgByte s (4 * k)

/-- The address field that region `p` shows; open at a granularity other than 4 bytes (R107; log 15). -/
def pmpAddrField (c : Cfg) (p : PmpRegion) : BitVec 30 :=
  if c.pmpMinGranularity = 4 then p.addr else Config.pmpAddrRead c.pmpMinGranularity p.a p.addr

/-- `pmpaddr<i>` as it reads: bits 31:30 are 0 (R107). -/
def pmpaddrWord (s : State) (i : Nat) : Word :=
  if i < s.cfg.pmpNumRegions then 0#2 ++ pmpAddrField s.cfg (s.region i) else 0

/-- Monitor `n + 3` has real registers (11 R119). -/
def monitorReal (c : Cfg) (n : Nat) : Bool := decide (n < c.hpmNumCnts)

/-- The state of monitor `n + 3`; all zero past monitor 15. -/
def State.monitor (s : State) (n : Nat) : HpmMonitor := s.hpm[n]?.getD {}

/-- `mhpmevent<n + 3>` as it reads (R121). -/
def hpmEventWord (s : State) (n : Nat) : Word :=
  if monitorReal s.cfg n then (s.monitor n).event.setWidth 32 else 0

/-- The 64-bit value of the counter of monitor `n + 3`: bits at and above HPM_CNT_WIDTH read 0 (R123). -/
def hpmValue (s : State) (n : Nat) : DWord :=
  if monitorReal s.cfg n then (s.monitor n).cnt &&& widthMask s.cfg.hpmCntWidth else 0

/-- `mxcsr` as it reads (R136). -/
def mxcsrWord (c : Cfg) : Word :=
  wordOfBits
    [(26, c.cpuTraceEn), (27, c.cpuConsttBrEn), (28, c.cpuRfHwRstEn), (29, c.cpuFastMulEn), (30, c.cpuFastShiftEn), (31, c.isSim)]

/-- `mxisa` as it reads (R138). -/
def mxisaWord (c : Cfg) : Word :=
  wordOfBits
    [(0, c.extZicsr), (1, c.sub.zifencei), (2, c.sub.zmmul), (3, c.sub.zxcfu), (4, c.sub.zkt), (5, c.extZfinx),
      (6, c.sub.zicond), (7, c.extZicntr), (8, c.extSmpmp), (9, c.extZihpm), (10, c.extSdext), (11, c.extSdtrig),
      (12, c.sub.zbkx), (13, c.sub.zknd), (14, c.sub.zkne), (15, c.sub.zknh), (16, c.sub.zbkb), (17, c.sub.zbkc),
      (18, c.sub.zkn), (19, c.sub.zksh), (20, c.sub.zksed), (21, c.sub.zks), (22, c.sub.zba), (23, c.sub.zbb),
      (24, c.sub.zbs), (25, c.sub.zaamo), (26, c.sub.zalrsc), (27, c.sub.zcb), (28, c.extC), (29, c.sub.zibi),
      (30, c.sub.zimop)]

/-- The value a read of a CSR returns (R30). The trigger and debug registers return what the state holds, which `tick` sets
anew at every step (log 6, log 7). -/
def csrRead (c : Csr) (s : State) : Word :=
  match c with
  | .fflags => s.fflags.setWidth 32
  | .frm => s.frm.setWidth 32
  | .fcsr => fcsrWord s
  | .mstatus => mstatusWord s.mstatus
  | .misa => misaWord s.cfg
  | .mie => s.mie
  | .mtvec => s.mtvec
  | .mcounteren => mcounterenWord s.mcounteren
  | .menvcfg => 0
  | .mstatush => 0
  | .menvcfgh => 0
  | .mcountinhibit => s.mcountinhibit
  | .mhpmevent n => hpmEventWord s n.val
  | .mscratch => s.mscratch
  | .mepc => s.mepc
  | .mcause => mcauseWord s.mcause
  | .mtval => s.mtval
  | .mip => mipWord s.mip
  | .mtinst => s.mtinst
  | .pmpcfg k => pmpcfgWord s k.val
  | .pmpaddr i => pmpaddrWord s i.val
  | .tselect => s.trigger.tselect
  | .tdata1 => s.trigger.tdata1
  | .tdata2 => s.trigger.tdata2
  | .tinfo => s.trigger.tinfo
  | .dcsr => s.debugRegs.dcsr
  | .dpc => s.debugRegs.dpc
  | .dscratch0 => s.debugRegs.dscratch0
  | .mcycle => lowWord s.cycle
  | .minstret => lowWord s.instret
  | .mhpmcounter n => lowWord (hpmValue s n.val)
  | .mcycleh => highWord s.cycle
  | .minstreth => highWord s.instret
  | .mhpmcounterh n => highWord (hpmValue s n.val)
  | .mxcsr => mxcsrWord s.cfg
  | .cycle => lowWord s.cycle
  | .instret => lowWord s.instret
  | .cycleh => highWord s.cycle
  | .instreth => highWord s.instret
  | .mvendorid => 0x00000000
  | .marchid => 0x00000013
  | .mimpid => s.cfg.hwVersion
  | .mhartid => s.cfg.hartId
  | .mconfigptr => 0x00000000
  | .mxisa => mxisaWord s.cfg

end Sys2Proof.Machine
end

