-- ==== Sys2Proof/WellFormed.lean ====
section
/-! DEFINITION. Which configurations the spec gives a meaning to (00_scope.md R6) and which instructions name only registers
that the configuration has (10_state.md R20). -/

namespace Sys2Proof

/-- Register `r` exists: with the E extension only `x0` .. `x15` do (R20). -/
def RegNum.existsIn (c : Cfg) (r : RegNum) : Bool :=
  !c.extE || r.toNat < 16

/-- Every register an instruction names exists (R20, U14). -/
def Instr.wellFormed (c : Cfg) : Instr → Bool
  | .csrrw rd _ rs1 => RegNum.existsIn c rd && RegNum.existsIn c rs1
  | .csrrs rd _ rs1 => RegNum.existsIn c rd && RegNum.existsIn c rs1
  | .csrrc rd _ rs1 => RegNum.existsIn c rd && RegNum.existsIn c rs1
  | .csrrwi rd _ _ => RegNum.existsIn c rd
  | .csrrsi rd _ _ => RegNum.existsIn c rd
  | .csrrci rd _ _ => RegNum.existsIn c rd
  | .mret => true
  | .wfi => true

/-- An address-matching mode that this configuration implements: OFF always, TOR and the NA modes by their generics (R104). -/
def Cfg.implementsMode (c : Cfg) (a : BitVec 2) : Bool :=
  a == 0 || (a == 1 && c.pmpTorModeEn) || ((a == 2 || a == 3) && c.pmpNapModeEn)

/-- IALIGN in bytes as a mask test: bit 0 of an instruction address is 0, and bit 1 too without the C extension (R21, R162). -/
def Cfg.alignedPc (c : Cfg) (a : Word) : Bool :=
  !a.getLsbD 0 && (c.extC || !a.getLsbD 1)

/-- Eight binary-coded decimal digits (R5, 11_state_pmp_counters_info.md R133). -/
def bcd (v : Word) : Bool :=
  (List.range 8).all fun k => decide (v.extractLsb' (4 * k) 4 ≤ 9)

/-- A well-formed configuration (R6; R5: the ranges, HW_VERSION in BCD; R322: BOOT_ADDR is IALIGN-aligned; R278: IRQ_PRIORITY is
a total order on the 19 sources; R13: an excluded mode reads back a legal one). -/
def Cfg.wellFormed (c : Cfg) : Bool :=
  c.extZicsr
    && c.pmpNumRegions ≤ 16
    && c.hpmNumCnts ≤ 13
    && c.hpmCntWidth ≤ 64
    && c.extSmpmp == decide (0 < c.pmpNumRegions)
    && c.extZihpm == decide (0 < c.hpmNumCnts)
    && bcd c.hwVersion
    && c.alignedPc c.bootAddr
    && c.irqPriority.isPerm IrqSource.all
    && c.implementsMode c.pmpLegalA.tor
    && c.implementsMode c.pmpLegalA.na4
    && c.implementsMode c.pmpLegalA.napot

end Sys2Proof
end

