-- ==== Sys2Proof/Machine/Operands.lean ====
section
/-! DEFINITION. The operand forms of the CSR access instructions (30_encoding.md R192): the source register or the
zero-extended immediate, the destination register, and which forms are a write access (40_zicsr_access.md R221). -/

namespace Sys2Proof.Machine

/-- Read of a general register; `x0` reads as zero (10_state.md R20). -/
def readX (s : State) (r : RegNum) : Word :=
  if r = 0 then 0 else s.x[r.toNat]

/-- Write of a general register; a write to `x0` is discarded (R20). -/
def writeX (r : RegNum) (v : Word) (s : State) : State :=
  if r = 0 then s else { s with x := s.x.set r.toNat v }

/-- The source operand of the immediate forms: `uimm` zero-extended (R192). -/
def immOperand (uimm : BitVec 5) : Word := uimm.setWidth 32

/-- `csrrs`, `csrrc` and their immediate forms are a write access if and only if the `rs1` or `uimm` field is not 0 (R221). -/
def fieldWrites (f : BitVec 5) : Bool := f != 0

/-- The CSR address an instruction names and whether the instruction is a write access to it (R220, R221); none for `mret` and
`wfi`. -/
def Instr.access : Instr → Option (CsrAddr × Bool)
  | .csrrw _ csr _ => some (csr, true)
  | .csrrs _ csr rs1 => some (csr, fieldWrites rs1)
  | .csrrc _ csr rs1 => some (csr, fieldWrites rs1)
  | .csrrwi _ csr _ => some (csr, true)
  | .csrrsi _ csr uimm => some (csr, fieldWrites uimm)
  | .csrrci _ csr uimm => some (csr, fieldWrites uimm)
  | .mret => none
  | .wfi => none

/-- The destination register of an instruction (R192). -/
def Instr.dest : Instr → Option RegNum
  | .csrrw rd _ _ => some rd
  | .csrrs rd _ _ => some rd
  | .csrrc rd _ _ => some rd
  | .csrrwi rd _ _ => some rd
  | .csrrsi rd _ _ => some rd
  | .csrrci rd _ _ => some rd
  | .mret => none
  | .wfi => none

/-- The value an instruction writes to the CSR whose old value is `old`: the source operand, the old value with the operand's bits
set, or with them cleared (R220). -/
def Instr.newValue (i : Instr) (s : State) (old : Word) : Word :=
  match i with
  | .csrrw _ _ rs1 => readX s rs1
  | .csrrs _ _ rs1 => old ||| readX s rs1
  | .csrrc _ _ rs1 => old &&& ~~~readX s rs1
  | .csrrwi _ _ uimm => immOperand uimm
  | .csrrsi _ _ uimm => old ||| immOperand uimm
  | .csrrci _ _ uimm => old &&& ~~~immOperand uimm
  | .mret => old
  | .wfi => old

/-- The mask of the instruction-address bits that exist: bit 0 is hardwired 0, bit 1 too without the C extension
(10_state.md R62). -/
def pcMask (c : Cfg) : Word := if c.extC then 0xFFFFFFFE else 0xFFFFFFFC

/-- An instruction address with the hardwired bits cleared (R62, R162). -/
def alignPc (c : Cfg) (a : Word) : Word := a &&& pcMask c

end Sys2Proof.Machine
end

