-- ==== Sys2Proof/Machine/CsrWrite.lean ====
section
/-! DEFINITION. `CsrWrite` (10_state.md R31): the state after a write, each field legalised (00_scope.md R13). A write never
raises an exception because of the value. -/

namespace Sys2Proof.Machine

/-- The mode a value written to `mstatus.MPP` is stored as: 00 is user mode, every other value falls back to machine mode;
without user mode it is always machine mode (R42). -/
def legalMpp (c : Cfg) (v : BitVec 2) : Priv :=
  if c.extU && v == 0 then .user else .machine

/-- `mstatus` after a write of `v` (R40, R41). -/
def mstatusOfWord (c : Cfg) (v : Word) : MStatus where
  mie := v.getLsbD 3
  mpie := v.getLsbD 7
  mpp := legalMpp c (v.extractLsb' 11 2)
  mprv := c.extU && v.getLsbD 17
  tw := c.extU && v.getLsbD 21

/-- The writable bits of `mie` (R49). -/
def mieMask : Word := 0xFFFF0888

/-- A legal value of `mtvec`: DIRECT mode with any base, or VECTORED mode with a base aligned to 128 bytes (R50, R51). -/
def mtvecLegal (v : Word) : Bool :=
  v.extractLsb' 0 2 == 0 || (v.extractLsb' 0 2 == 1 && v.extractLsb' 2 5 == 0)

/-- The legal value of `mtvec` that an arbitrary value selects; every legal value selects itself. -/
def mtvecSelect (v : Word) : Word :=
  if v.getLsbD 0 then (v &&& 0xFFFFFF80) ||| 1 else v &&& 0xFFFFFFFC

/-- `mtvec` after a write of `v`: a legal value is stored; for another the write leaves some legal value the spec does not
name, here the one the step's draw selects (R51; log 5). -/
def mtvecAfter (d : StepInput) (v : Word) : Word :=
  if mtvecLegal v then v else mtvecSelect d.mtvec

/-- The mode that stands for `a` where it is a legal value of the configuration, else OFF (R13, R104). -/
def orOff (c : Cfg) (a : BitVec 2) : BitVec 2 := if c.implementsMode a then a else 0

/-- The stored form of a value written to a PMP `A` field (11 R104); for NA4 at a granularity other than 4 bytes some legal value
that the spec leaves open (log 15). -/
def legalA (c : Cfg) (a : BitVec 2) : BitVec 2 :=
  match a.toNat with
  | 0 => 0
  | 1 => if c.pmpTorModeEn then 1 else c.pmpLegalA.tor
  | 2 =>
    if !c.pmpNapModeEn then c.pmpLegalA.na4
    else if c.pmpMinGranularity = 4 then 2
    else orOff c (Config.pmpNa4Legal c.pmpMinGranularity)
  | _ => if c.pmpNapModeEn then 3 else c.pmpLegalA.napot

/-- A region after its configuration byte is written with `b`; a locked region keeps its byte (R103, R105). -/
def PmpRegion.withCfg (c : Cfg) (b : Byte) (p : PmpRegion) : PmpRegion :=
  if p.l then p
  else
    { p with
      r := b.getLsbD 0
      w := b.getLsbD 1
      x := b.getLsbD 2
      a := legalA c (b.extractLsb' 3 2)
      l := b.getLsbD 7 }

/-- The regions after a write of `v` to `pmpcfg<k>`: each of the four bytes on its own, regions that are not implemented
unchanged (R103, R27). -/
def pmpAfterCfg (k : Nat) (v : Word) (s : State) : Vector PmpRegion 16 :=
  Vector.ofFn fun i =>
    if i.val / 4 = k ∧ i.val < s.cfg.pmpNumRegions then (s.region i.val).withCfg s.cfg (byteOf v (i.val % 4))
    else s.region i.val

/-- The address field a write of `v` to `pmpaddr<i>` leaves: bits 29:0, but at a granularity other than 4 bytes what the
configuration's `pmp_addr_legal` says (R107, D19; log 15). -/
def legalPmpAddr (c : Cfg) (v : Word) : BitVec 30 :=
  if c.pmpMinGranularity = 4 then v.extractLsb' 0 30 else (c.pmpAddrLegal.lookup v).getD (v.extractLsb' 0 30)

/-- `pmpaddr<i>` takes writes: the region is implemented and not locked, and the region above is not locked in TOR mode (R108). -/
def pmpaddrWritable (s : State) (i : Nat) : Bool :=
  decide (i < s.cfg.pmpNumRegions) && !(s.region i).l
    && !(decide (i + 1 < s.cfg.pmpNumRegions) && (s.region (i + 1)).l && (s.region (i + 1)).a == 1)

/-- The regions after a write of `v` to `pmpaddr<j>` (R108). -/
def pmpAfterAddr (j : Nat) (v : Word) (s : State) : Vector PmpRegion 16 :=
  Vector.ofFn fun i =>
    if i.val = j ∧ pmpaddrWritable s j then { s.region i.val with addr := legalPmpAddr s.cfg v }
    else s.region i.val

/-- The writable bits of `mcountinhibit` (11 R127). -/
def mcountinhibitMask (c : Cfg) : Word :=
  (if c.extZicntr then 0x00000005 else 0) ||| (if c.extZihpm then 0x0000FFF8 else 0)

/-- The writable bits of `mhpmevent<n>` (R121). -/
def hpmEventMask : BitVec 12 := 0xFFD

/-- The monitors after monitor `j + 3`, if it is real, is changed by `f` (R119). -/
def hpmAfter (j : Nat) (f : HpmMonitor → HpmMonitor) (s : State) : Vector HpmMonitor 13 :=
  Vector.ofFn fun i =>
    if i.val = j ∧ monitorReal s.cfg j then f (s.monitor i.val) else s.monitor i.val

/-- The state after a write of `v` to a CSR (R31); a register whose write has no specified effect refuses. The read-only
classes never get here (R28) and keep their state. -/
def csrWrite (c : Csr) (v : Word) (s : State) : Except Refusal State :=
  match c with
  | .fflags => .ok { s with fflags := flagsOfWord v }
  | .frm => .ok { s with frm := roundingOfFrm v }
  | .fcsr => .ok { s with fflags := flagsOfWord v, frm := roundingOfFcsr v }
  | .mstatus => .ok { s with mstatus := mstatusOfWord s.cfg v }
  | .misa => .ok s
  | .mie => .ok { s with mie := v &&& mieMask }
  | .mtvec => .ok { s with mtvec := mtvecAfter s.draw v }
  | .mcounteren => .ok { s with mcounteren := { cy := v.getLsbD 0, ir := v.getLsbD 2 } }
  | .menvcfg => .ok s
  | .mstatush => .ok s
  | .menvcfgh => .ok s
  | .mcountinhibit => .ok { s with mcountinhibit := v &&& mcountinhibitMask s.cfg }
  | .mhpmevent n => .ok { s with hpm := hpmAfter n.val (fun m => { m with event := v.extractLsb' 0 12 &&& hpmEventMask }) s }
  | .mscratch => .ok { s with mscratch := v }
  | .mepc => .ok { s with mepc := alignPc s.cfg v }
  | .mcause => .ok s
  | .mtval => .ok s
  | .mip => .ok s
  | .mtinst => .ok s
  | .pmpcfg k => .ok { s with pmp := pmpAfterCfg k.val v s }
  | .pmpaddr i => .ok { s with pmp := pmpAfterAddr i.val v s }
  | .tselect => .error .triggerWrite
  | .tdata1 => .error .triggerWrite
  | .tdata2 => .error .triggerWrite
  | .tinfo => .error .triggerWrite
  | .dcsr => .error .debugWrite
  | .dpc => .error .debugWrite
  | .dscratch0 => .error .debugWrite
  | .mcycle => .ok { s with cycle := withLowWord s.cycle v }
  | .minstret => .ok { s with instret := withLowWord s.instret v }
  | .mhpmcounter n =>
    .ok { s with hpm := hpmAfter n.val (fun m => { m with cnt := withLowWord m.cnt v &&& widthMask s.cfg.hpmCntWidth }) s }
  | .mcycleh => .ok { s with cycle := withHighWord s.cycle v }
  | .minstreth => .ok { s with instret := withHighWord s.instret v }
  | .mhpmcounterh n =>
    .ok { s with hpm := hpmAfter n.val (fun m => { m with cnt := withHighWord m.cnt v &&& widthMask s.cfg.hpmCntWidth }) s }
  | .mxcsr => .ok s
  | .cycle => .ok s
  | .instret => .ok s
  | .cycleh => .ok s
  | .instreth => .ok s
  | .mvendorid => .ok s
  | .marchid => .ok s
  | .mimpid => .ok s
  | .mhartid => .ok s
  | .mconfigptr => .ok s
  | .mxisa => .ok s

end Sys2Proof.Machine
end

