-- ==== Sys2Proof/Machine/Ops.lean ====
section
/-! DEFINITION. The shared operations: the access check, the counting of executed instructions, taking an exception or an
interrupt as one operation and the return from it, and the common step of the CSR access instructions. -/

namespace Sys2Proof.Machine

/-- What a step of the machine answers. -/
abbrev Result := Host.Outcome State Fault Refusal

/-- `csr.mcountinhibit.CY`: bit 0, or bit 2 as the source's table prints it (11 R126, C11). -/
def inhibitCY (s : State) : Bool :=
  s.mcountinhibit.getLsbD (if s.cfg.mcountinhibitAsPrinted then 2 else 0)

/-- `csr.mcountinhibit.IR`: bit 2, or bit 0 as the source's table prints it (R126, C11). -/
def inhibitIR (s : State) : Bool :=
  s.mcountinhibit.getLsbD (if s.cfg.mcountinhibitAsPrinted then 0 else 2)

/-- `csr.mcountinhibit.HPM[n + 3]` (R126). -/
def inhibitHPM (s : State) (n : Nat) : Bool := s.mcountinhibit.getLsbD (n + 3)

/-- The instruction counter after one more executed instruction (R114). -/
def instretNext (s : State) : DWord :=
  if s.cfg.extZicntr && !inhibitIR s then s.instret + 1 else s.instret

/-- One executed instruction is counted (R114). -/
def countInstr (s : State) : State := { s with instret := instretNext s }

/-- The address of the next instruction: every in-scope instruction is four bytes long (10_state.md R21, D3). -/
def nextPc (s : State) : Word := s.pc + 4

/-- The base address of the trap handler (R50). -/
def trapBase (s : State) : Word := s.mtvec &&& 0xFFFFFFFC

/-- The address a trap goes to: the base, and in VECTORED mode for an interrupt its entry of the table (R52, R283). -/
def trapTarget (s : State) (interrupt : Bool) (code : BitVec 5) : Word :=
  if s.mtvec.extractLsb' 0 2 = 1 ∧ interrupt then trapBase s + (code.setWidth 32 <<< 2) else trapBase s

/-- TAKING A TRAP, one step (60_exceptions.md R281 to R285): `mepc` and `mcause` are recorded, the interrupt enable and the mode
are stacked in `mstatus`, the mode becomes M, the pc goes to the handler, `mtval` and `mtinst` are recorded. No general
register, no memory and no counter changes. -/
def trapEntry (interrupt : Bool) (code : BitVec 5) (epc mtval mtinst : Word) (s : State) : State :=
  { s with
    mepc := alignPc s.cfg epc
    mcause := { interrupt := interrupt, code := code }
    mstatus :=
      { s.mstatus with
        mpie := s.mstatus.mie
        mie := false
        mpp := legalMpp s.cfg (privBits s.priv) }
    priv := .machine
    pc := trapTarget s interrupt code
    mtval := mtval
    mtinst := mtinst }

/-- RETURN FROM A TRAP (41_trap_return_and_wait.md R250): the interrupt enable and the mode are unstacked, MPRV is cleared when
the mode is left, the pc is `mepc`. -/
def trapReturn (s : State) : State :=
  { s with
    mstatus :=
      { s.mstatus with
        mie := s.mstatus.mpie
        mpie := true
        mpp := legalMpp s.cfg 0b00
        mprv := s.mstatus.mprv && s.mstatus.mpp == .machine }
    priv := s.mstatus.mpp
    pc := s.mepc }

/-- The code of an exception cause (60_exceptions.md R271). -/
def ExcCause.code : ExcCause → BitVec 5
  | .instrAddrMisaligned => 0
  | .instrAccessFault => 1
  | .illegalInstruction => 2
  | .breakpoint => 3
  | .loadAddrMisaligned => 4
  | .loadAccessFault => 5
  | .storeAddrMisaligned => 6
  | .storeAccessFault => 7
  | .ecallFromU => 8
  | .ecallFromM => 11

/-- What `mtinst` records of an instruction: a 32-bit instruction itself, a compressed one expanded with bit 1 cleared
(10_state.md R67; log 24). Without the C extension there is no compressed instruction and the value is open. -/
def mtinstOf (w : Word) (s : State) : Word :=
  if w.extractLsb' 0 2 = 0b11#2 then w
  else if s.cfg.extC then Config.decompress (lowHalf w) &&& 0xFFFFFFFD
  else s.draw.mtinst

/-- What `mtval` records of an exception: 0 for an illegal instruction, open for every other cause (R284, D36; log 11). -/
def mtvalOf (c : ExcCause) (s : State) : Word :=
  match c with
  | .illegalInstruction => 0
  | _ => s.draw.mtval

/-- The instruction word `w` raises an exception: it has been counted, and the trap is taken with its own address (R270, R285). -/
def raiseException (c : ExcCause) (w : Word) (s : State) : State :=
  trapEntry false (ExcCause.code c) s.pc (mtvalOf c s) (mtinstOf w s) (countInstr s)

/-- `raise IllegalInstruction(insn)` by an in-scope instruction (R270). -/
def raiseIllegal (i : Instr) (s : State) : State := raiseException .illegalInstruction (encode i) s

/-- The access check of a CSR that is in the table of R24 (10_state.md R28): it exists, the mode suffices, a counter is enabled
for user mode, and a read-only register is not written. -/
def csrAllowed (c : Csr) (wr : Bool) (s : State) : Bool :=
  c.existsIn s.cfg
    && (c.cls != .drw || s.debugMode)
    && ((c.cls != .mrw && c.cls != .mro) || s.priv == .machine || s.debugMode)
    && ((c != .cycle && c != .cycleh) || s.priv == .machine || s.debugMode || s.mcounteren.cy)
    && ((c != .instret && c != .instreth) || s.priv == .machine || s.debugMode || s.mcounteren.ir)
    && (!wr || !c.cls.readOnly)

/-- `CsrCheck(a, wr)` (R28): an address that is not in the table fails it (R25). -/
def csrCheck (a : CsrAddr) (wr : Bool) (s : State) : Bool :=
  match csrOfAddr a with
  | none => false
  | some c => csrAllowed c wr s

/-- Why the model gives no instruction of this machine a meaning: debug mode (R23), or no Zicsr (R6, D1). -/
def machineRefusal (s : State) : Option Refusal :=
  if s.debugMode then some .debugMode
  else if !s.cfg.extZicsr then some .zicsrAbsent
  else none

/-- The outcome of an in-scope instruction, refused where the machine is, or where the instruction names a register that the
configuration does not have (R20, U14). -/
def inScope (i : Instr) (s : State) (r : Result) : Result :=
  match machineRefusal s with
  | some why => .refused why
  | none => if i.wellFormed s.cfg then r else .refused .rv32eRegister

/-- A CSR is `minstret` or `minstreth`: an instruction that writes one is not counted itself (11 R114, D22). -/
def Csr.isInstret : Csr → Bool
  | .minstret | .minstreth => true
  | _ => false

/-- Steps 3 to 6 of the common step (40_zicsr_access.md R220), the check having passed: the old value is read, the CSR is
written if the instruction is a write access, the old value goes to `rd`, the pc advances and the instruction is counted. -/
def csrModify (c : Csr) (rd : RegNum) (wr : Bool) (new : Word → Word) (s : State) : Result :=
  match if wr then csrWrite c (new (csrRead c s)) s else .ok s with
  | .error why => .refused why
  | .ok t =>
    .next (writeX rd (csrRead c s)
      { t with
        pc := nextPc s
        instret := if wr && c.isInstret then t.instret else instretNext s })

/-- The common step of the six CSR access instructions (R220): a failing check raises the illegal-instruction exception and
changes nothing else. -/
def csrAccess (i : Instr) (a : CsrAddr) (rd : RegNum) (wr : Bool) (new : Word → Word) (s : State) : Result :=
  match csrOfAddr a with
  | none => .next (raiseIllegal i s)
  | some c => if csrAllowed c wr s then csrModify c rd wr new s else .next (raiseIllegal i s)

end Sys2Proof.Machine
end

