-- ==== Sys2Proof/Machine/System.lean ====
section
/-! DEFINITION. `mret` and `wfi` (41_trap_return_and_wait.md R250 to R253). -/

namespace Sys2Proof.Machine

/-- `mret`: return from the trap handler in machine mode, illegal instruction in user mode; counted like every executed
instruction (R250, R251). -/
def execMret (s : State) : Result :=
  inScope .mret s (.next (if s.priv = .machine then trapReturn (countInstr s) else raiseIllegal .mret s))

/-- `wfi`: the pc advances and the hart may go to sleep, by a draw of its own, so also in the step in which it woke; illegal
instruction in user mode while `mstatus.TW` is set (R252, R253; log 8). -/
def execWfi (s : State) : Result :=
  inScope .wfi s
    (.next
      (if s.priv = .user ∧ s.mstatus.tw then raiseIllegal .wfi s
        else { countInstr s with pc := nextPc s, sleeping := s.draw.sleep }))

end Sys2Proof.Machine
end

