-- ==== Sys2Proof/Machine/Zicsr.lean ====
section
/-! DEFINITION. The six CSR access instructions (40_zicsr_access.md R222 to R227): one meaning each over the common step. -/

namespace Sys2Proof.Machine

/-- `csrrw rd, csr, rs1`: write the source register, always a write access (R222). -/
def execCsrrw (rd : RegNum) (csr : CsrAddr) (rs1 : RegNum) (s : State) : Result :=
  inScope (.csrrw rd csr rs1) s (csrAccess (.csrrw rd csr rs1) csr rd true (fun _ => readX s rs1) s)

/-- `csrrs rd, csr, rs1`: set the bits of the source register, a write access unless `rs1` is `x0` (R223). -/
def execCsrrs (rd : RegNum) (csr : CsrAddr) (rs1 : RegNum) (s : State) : Result :=
  inScope (.csrrs rd csr rs1) s
    (csrAccess (.csrrs rd csr rs1) csr rd (fieldWrites rs1) (fun old => old ||| readX s rs1) s)

/-- `csrrc rd, csr, rs1`: clear the bits of the source register, a write access unless `rs1` is `x0` (R224). -/
def execCsrrc (rd : RegNum) (csr : CsrAddr) (rs1 : RegNum) (s : State) : Result :=
  inScope (.csrrc rd csr rs1) s
    (csrAccess (.csrrc rd csr rs1) csr rd (fieldWrites rs1) (fun old => old &&& ~~~readX s rs1) s)

/-- `csrrwi rd, csr, uimm`: write the zero-extended immediate, always a write access (R225). -/
def execCsrrwi (rd : RegNum) (csr : CsrAddr) (uimm : BitVec 5) (s : State) : Result :=
  inScope (.csrrwi rd csr uimm) s (csrAccess (.csrrwi rd csr uimm) csr rd true (fun _ => immOperand uimm) s)

/-- `csrrsi rd, csr, uimm`: set bits 4:0 by the immediate, a write access unless it is 0 (R226). -/
def execCsrrsi (rd : RegNum) (csr : CsrAddr) (uimm : BitVec 5) (s : State) : Result :=
  inScope (.csrrsi rd csr uimm) s
    (csrAccess (.csrrsi rd csr uimm) csr rd (fieldWrites uimm) (fun old => old ||| immOperand uimm) s)

/-- `csrrci rd, csr, uimm`: clear bits 4:0 by the immediate, a write access unless it is 0 (R227). -/
def execCsrrci (rd : RegNum) (csr : CsrAddr) (uimm : BitVec 5) (s : State) : Result :=
  inScope (.csrrci rd csr uimm) s
    (csrAccess (.csrrci rd csr uimm) csr rd (fieldWrites uimm) (fun old => old &&& ~~~immOperand uimm) s)

end Sys2Proof.Machine
end

