-- ==== Sys2Proof/Machine/Memory.lean ====
section
/-! DEFINITION. The memory space (20_memory.md R160): 2^32 byte addresses, held as a list of cells in one canonical form,
addresses strictly rising. An unlisted byte has no value (log 21). -/

namespace Sys2Proof.Machine

/-- Every address of the list is above `lo` and they rise strictly. -/
def Memory.risingAbove (lo : Nat) : List Host.Cell → Bool
  | [] => true
  | (a, _) :: rest => decide (lo < a) && Memory.risingAbove a rest

/-- Addresses rise strictly. -/
def Memory.rising : List Host.Cell → Bool
  | [] => true
  | (a, _) :: rest => Memory.risingAbove a rest

/-- The canonical form: addresses rise strictly and lie in the 32-bit address space (R160). -/
def Memory.wf (m : List Host.Cell) : Bool :=
  Memory.rising m && m.all fun c => decide (c.1 < 2 ^ 32)

/-- The byte at address `a`, none if nothing has written it. -/
def Memory.read (m : List Host.Cell) (a : Nat) : Option Byte :=
  match m with
  | [] => none
  | (a', b) :: rest => if a = a' then some b else Memory.read rest a

/-- Memory with the byte at address `a` set to `b`. -/
def Memory.write (m : List Host.Cell) (a : Nat) (b : Byte) : List Host.Cell :=
  match m with
  | [] => [(a, b)]
  | (a', b') :: rest =>
    if a < a' then (a, b) :: (a', b') :: rest
    else if a = a' then (a, b) :: rest
    else (a', b') :: Memory.write rest a b

/-- Memory with the given bytes stored at `a`, `a + 1`, ..., addresses wrapping at 2^32 (R160). -/
def Memory.writeBytes (m : List Host.Cell) (a : Word) : List Byte → List Host.Cell
  | [] => m
  | b :: rest => Memory.writeBytes (Memory.write m a.toNat b) (a + 1) rest

/-- Memory with the given bytes stored each at its own address, in order. -/
def Memory.writeCells (m : List Host.Cell) : List (Word × Byte) → List Host.Cell
  | [] => m
  | (a, b) :: rest => Memory.writeCells (Memory.write m a.toNat b) rest

/-- One byte of the state's memory. -/
def State.readByte (s : State) (a : Nat) : Option Byte := Memory.read s.mem a

end Sys2Proof.Machine
end

