-- ==== Sys2Proof/Machine/Pmp.lean ====
section
/-! DEFINITION. The physical memory protection check (20_memory.md R170 to R174, PRESUMED by the spec: log 14) and the effective
privilege of loads and stores (10_state.md R45). -/

namespace Sys2Proof.Machine

/-- The kinds of access the check tells apart (R172). -/
inductive AccessKind where
  | fetch
  | load
  | store
deriving DecidableEq, Repr

/-- The privilege an access is checked at: a fetch uses the current mode, a load or store uses MPP while MPRV is set (R45). -/
def effectivePriv (k : AccessKind) (s : State) : Priv :=
  match k with
  | .fetch => s.priv
  | _ => if s.mstatus.mprv then s.mstatus.mpp else s.priv

/-- The number of consecutive 1 bits at the low end of `p`, looking at `fuel` bits (R171). -/
def trailingOnes (fuel : Nat) (p : BitVec 30) : Nat :=
  match fuel with
  | 0 => 0
  | fuel + 1 => if p.getLsbD 0 then trailingOnes fuel (p >>> 1) + 1 else 0

/-- NAPOT: the word address agrees with the field above its trailing ones and the zero that ends them (R171). -/
def napotMatches (p w : BitVec 30) : Bool :=
  w >>> (trailingOnes 30 p + 1) == p >>> (trailingOnes 30 p + 1)

/-- Region `i` matches the word address `w`, by its mode (R171). -/
def regionMatchesWord (s : State) (i : Nat) (w : BitVec 30) : Bool :=
  let p := s.region i
  let lower : BitVec 30 := if i = 0 then 0 else (s.region (i - 1)).addr
  if p.a = 0 then false
  else if s.cfg.pmpMinGranularity ≠ 4 then Config.pmpMatches s.cfg.pmpMinGranularity p.a lower p.addr w
  else if p.a = 1 then decide (lower ≤ w ∧ w < p.addr)
  else if p.a = 2 then w == p.addr
  else napotMatches p.addr w

/-- Region `i` matches the byte at address `a` (R171). -/
def regionMatches (s : State) (i : Nat) (a : Word) : Bool :=
  regionMatchesWord s i (a.extractLsb' 2 30)

/-- The addresses of the `n` bytes of an access, wrapping at 2^32. -/
def accessBytes (a : Word) (n : Nat) : List Word := (List.range n).map fun k => a + BitVec.ofNat 32 k

/-- The permission bit of a region for an access kind (R172). -/
def PmpRegion.permits (k : AccessKind) (p : PmpRegion) : Bool :=
  match k with
  | .fetch => p.x
  | .load => p.r
  | .store => p.w

/-- The lowest-numbered implemented region that matches at least one byte of the access (R172, R173). -/
def decidingRegion (s : State) (a : Word) (n : Nat) : Option Nat :=
  (List.range s.cfg.pmpNumRegions).find? fun i => (accessBytes a n).any (regionMatches s i)

/-- The check of an access of `n` bytes at `a` (R172). -/
def pmpAllows (k : AccessKind) (a : Word) (n : Nat) (s : State) : Bool :=
  let e := effectivePriv k s
  match decidingRegion s a n with
  | some i =>
    (accessBytes a n).all (regionMatches s i)
      && ((e == .machine && !(s.region i).l) || (s.region i).permits k)
  | none => e == .machine || s.cfg.pmpNumRegions == 0

/-- The exception a failed check raises (R174). -/
def AccessKind.faultCause : AccessKind → ExcCause
  | .fetch => .instrAccessFault
  | .load => .loadAccessFault
  | .store => .storeAccessFault

end Sys2Proof.Machine
end

