-- ==== Sys2Proof/Machine/Fetch.lean ====
section
/-! DEFINITION. The instruction fetch (30_encoding.md R190, 20_memory.md R161, R162): little-endian, 32 bits, or 16 bits with the C
extension; checked by the PMP (R172). -/

namespace Sys2Proof.Machine

/-- What the fetch finds at the pc. -/
inductive Fetched where
  /-- An instruction word; a compressed instruction stands in the low halfword. -/
  | word (w : Word)
  /-- The PMP check failed (R174). -/
  | accessFault
  /-- A byte that nothing has written (log 21). -/
  | unwritten (addr : Nat)
deriving DecidableEq, Repr

/-- The halfword at an address, or the first byte of it that nothing has written. -/
def readHalf (s : State) (a : Word) : Except Nat (BitVec 16) :=
  match s.readByte a.toNat, s.readByte (a + 1).toNat with
  | none, _ => .error a.toNat
  | some _, none => .error (a + 1).toNat
  | some b0, some b1 => .ok (b1 ++ b0)

/-- The second half of a 32-bit instruction whose first half is `h0`. -/
def fetchSecond (h0 : BitVec 16) (s : State) : Fetched :=
  if pmpAllows .fetch s.pc 4 s then
    match readHalf s (s.pc + 2) with
    | .error a => .unwritten a
    | .ok h1 => .word (h1 ++ h0)
  else .accessFault

/-- The instruction at the pc. A parcel whose bits 4:0 are 11111 is no 32-bit instruction by R190, which says nothing of how it is
fetched; that it is fetched and checked as four bytes is the model's choice (log 22). The fetch reads memory as the last store left
it: whether the hardware's fetch sees a store of the same hart without `fence.i` the spec leaves open, and this is the model's choice
(20_memory.md R184, N13; log 35). -/
def fetch (s : State) : Fetched :=
  if pmpAllows .fetch s.pc 2 s then
    match readHalf s s.pc with
    | .error a => .unwritten a
    | .ok h0 => if s.cfg.extC && h0.extractLsb' 0 2 != 0b11#2 then .word (h0.setWidth 32) else fetchSecond h0 s
  else .accessFault

/-- The instruction that stands in memory at the pc, whatever the PMP says of its fetch, or the first byte of it that nothing has
written. -/
def insnAtPc (s : State) : Except Nat Word :=
  match readHalf s s.pc with
  | .error a => .error a
  | .ok h0 =>
    if s.cfg.extC && h0.extractLsb' 0 2 != 0b11#2 then .ok (h0.setWidth 32)
    else
      match readHalf s (s.pc + 2) with
      | .error a => .error a
      | .ok h1 => .ok (h1 ++ h0)

/-- `mtinst` after a failed fetch: what R284 records for every exception of an instruction; free where nothing has written the
instruction's bytes (log 10). -/
def fetchFaultMtinst (s : State) : Word :=
  match insnAtPc s with
  | .ok w => mtinstOf w s
  | .error _ => s.draw.mtinst

/-- The instruction access fault of a failed fetch (R174, R271, R284): whether the instruction is counted, and `mtval`, are open
(log 10). -/
def raiseFetchFault (s : State) : State :=
  trapEntry false (ExcCause.code (AccessKind.faultCause .fetch)) s.pc s.draw.mtval (fetchFaultMtinst s)
    (if s.draw.fetchFaultCounts then countInstr s else s)

end Sys2Proof.Machine
end

