-- ==== Sys2Proof/Machine/Foreign.lean ====
section
/-! DEFINITION. An out-of-scope instruction (00_scope.md R8, R14; 93_implementation_defined.md U15): it counts as executed, may
accrue FPU flags, may raise an exception, else goes anywhere and may write any register and any memory that the PMP lets it write
(20_memory.md R172, R174); no other CSR changes. All it does beyond that is a free value (log 23). -/

namespace Sys2Proof.Machine

/-- The listed register writes in order, those of registers the configuration does not have left out (10_state.md R20). -/
def writeRegs : List (RegNum × Word) → State → State
  | [], s => s
  | (r, v) :: rest, s => writeRegs rest (if RegNum.existsIn s.cfg r then writeX r v s else s)

/-- The kind of a data access (R172). -/
def MemAccess.kind : MemAccess → AccessKind
  | .load _ _ => .load
  | .store _ _ => .store

/-- The address of the first byte of a data access. -/
def MemAccess.addr : MemAccess → Word
  | .load a _ => a
  | .store a _ => a

/-- The number of bytes of a data access. -/
def MemAccess.length : MemAccess → Nat
  | .load _ n => n
  | .store _ bs => bs.length

/-- The PMP denies a data access; an access of no bytes is none (R172). -/
def MemAccess.denied (s : State) (m : MemAccess) : Bool :=
  decide (0 < MemAccess.length m) && !pmpAllows (MemAccess.kind m) (MemAccess.addr m) (MemAccess.length m) s

/-- The exception an out-of-scope instruction raises: one of its own, else the access fault of its first access that the PMP denies
(R174; log 14). -/
def foreignException (s : State) : Option ExcCause :=
  match s.draw.foreign.exception with
  | some c => some c
  | none => (s.draw.foreign.accesses.find? (MemAccess.denied s)).map fun m => AccessKind.faultCause (MemAccess.kind m)

/-- Memory after the stores of a list of accesses, in order. -/
def storeAll (m : List Host.Cell) : List MemAccess → List Host.Cell
  | [] => m
  | .load _ _ :: rest => storeAll m rest
  | .store a bs :: rest => storeAll (Memory.writeBytes m a bs) rest

/-- The step of a word `w` that is not one of the eight instructions. An exception leaves the registers and memory as they were
(60_exceptions.md R280). -/
def foreignStep (w : Word) (s : State) : State :=
  match foreignException s with
  | some c => raiseException c w (accrueFlags s.draw.foreign.fflags s)
  | none =>
    { writeRegs s.draw.foreign.regWrites (accrueFlags s.draw.foreign.fflags s) with
      mem := storeAll s.mem s.draw.foreign.accesses
      instret := instretNext s
      pc := alignPc s.cfg s.draw.foreign.nextPc }

end Sys2Proof.Machine
end

