-- ==== Sys2Proof/Machine/Interrupts.lean ====
section
/-! DEFINITION. Interrupts (60_exceptions.md R272 to R285): which are pending, which are takeable, which one is taken, and its
entry. -/

namespace Sys2Proof.Machine

/-- The cause code of a source: its bit position in `mie` and `mip` (R272, D40). -/
def IrqSource.code : IrqSource → BitVec 5
  | .msi => 3
  | .mti => 7
  | .mei => 11
  | .firq n => BitVec.ofNat 5 (16 + n.val)

/-- A source is pending: its `mip` bit reads 1 (R275). -/
def irqPending (s : State) (i : IrqSource) : Bool := (mipWord s.mip).getLsbD (IrqSource.code i).toNat

/-- A source is enabled: its `mie` bit is 1 (R275). -/
def irqEnabled (s : State) (i : IrqSource) : Bool := s.mie.getLsbD (IrqSource.code i).toNat

/-- Interrupts are globally enabled: always in user mode, in machine mode while `mstatus.MIE` is 1 (R277). -/
def globalEnable (s : State) : Bool := s.priv == .user || s.mstatus.mie

/-- A source can be taken at this boundary (R277). -/
def takeable (s : State) (i : IrqSource) : Bool := globalEnable s && irqPending s i && irqEnabled s i

/-- The takeable source that the configured order puts first (R278, D13). -/
def urgentIrq (s : State) : Option IrqSource :=
  if globalEnable s then s.cfg.irqPriority.find? (takeable s) else none

/-- The interrupt the hart takes at this boundary: where one is takeable, the step's draw says whether (R280, D48). -/
def interruptTaken (s : State) : Option IrqSource :=
  match urgentIrq s with
  | none => none
  | some i => if s.draw.takeIrq then some i else none

/-- Entry of an interrupt: the pc saved is the address of the next instruction, `mtval` and `mtinst` are open (R280, R284). -/
def enterInterrupt (i : IrqSource) (s : State) : State :=
  trapEntry true (IrqSource.code i) s.pc s.draw.mtval s.draw.mtinst s

/-- A sleeping hart must wake: some source is pending and enabled in `mie`, whatever `mstatus.MIE` holds (R253, D35). -/
def mustWake (lines : IrqLines) (s : State) : Bool := (mipWord lines &&& s.mie) != 0

end Sys2Proof.Machine
end

