-- ==== Sys2Proof/Machine/Tick.lean ====
section
/-! DEFINITION. What happens between two instructions (00_scope.md R14, R15): time passes for the counters, the interrupt sources
change their requests, a sleeping hart sleeps on or wakes. Each step begins with one `tick`, unless it is a reset. -/

namespace Sys2Proof.Machine

/-- The input of the next step: the first scheduled one, else a free value (R15; log 4). -/
def nextInput (s : State) : StepInput :=
  match s.inputs with
  | d :: _ => d
  | [] => Config.freeInput s.stepNo

/-- The hart is asleep and sleeps on through this step: only while no wake-up condition holds (R253, U25;
log 8). -/
def staysAsleep (d : StepInput) (s : State) : Bool := s.sleeping && d.sleepOn && !mustWake d.irq s

/-- The cycle counter after the drawn number of active cycles; none pass while it is inhibited or the hart sleeps (11 R112, D23,
R253). -/
def cycleAfter (d : StepInput) (s : State) : DWord :=
  if s.cfg.extZicntr && !inhibitCY s && !staysAsleep d s then s.cycle + BitVec.ofNat 64 d.cycles else s.cycle

/-- The events that can be observed for monitor `n + 3` in this interval: its selector, less event CY while the hart sleeps (R121,
R253; log 34). -/
def observableEvents (d : StepInput) (s : State) (n : Nat) : BitVec 12 :=
  if staysAsleep d s then (s.monitor n).event &&& 0xFFE else (s.monitor n).event

/-- Monitor `n + 3` counts in this interval: it is real, not inhibited and some selected event can be observed (R124, D46). -/
def monitorCounts (d : StepInput) (s : State) (n : Nat) : Bool :=
  monitorReal s.cfg n && !inhibitHPM s n && observableEvents d s n != 0

/-- The monitors after the drawn increments, modulo 2^HPM_CNT_WIDTH (R124, D21). -/
def hpmAdvanced (d : StepInput) (s : State) : Vector HpmMonitor 13 :=
  Vector.ofFn fun i =>
    if monitorCounts d s i.val then
      { s.monitor i.val with
        cnt := ((s.monitor i.val).cnt + BitVec.ofNat 64 (d.hpm[i.val])) &&& widthMask s.cfg.hpmCntWidth }
    else s.monitor i.val

/-- The state when the step's instruction or trap entry begins. -/
def tick (s : State) : State :=
  let d := nextInput s
  { s with
    mip := d.irq
    cycle := cycleAfter d s
    hpm := hpmAdvanced d s
    trigger := d.trigger
    debugRegs := d.debugRegs
    sleeping := staysAsleep d s
    inputs := s.inputs.tail
    stepNo := s.stepNo + 1
    draw := d }

/-- CPU RESET while running (70_reset_and_hazards.md R320): all state is discarded except the configuration. What the spec gives no
reset value, general registers, trigger and debug registers and memory, holds what the step's input says (R323; log 33); registers
that the E extension takes away hold nothing. -/
def cpuReset (r : ResetValues) (s : State) : State :=
  { State.resetOf s.cfg with
    x := Vector.ofFn fun i => if RegNum.existsIn s.cfg (BitVec.ofNat 5 i.val) then r.regs[i.val] else 0
    trigger := (nextInput s).trigger
    debugRegs := (nextInput s).debugRegs
    mem := Memory.writeCells [] r.bytes
    inputs := s.inputs.tail
    stepNo := s.stepNo + 1
    draw := nextInput s }

end Sys2Proof.Machine
end

