-- ==== Sys2Proof/Machine/Boundary.lean ====
section
/-! DEFINITION. What one step does: a reset (70_reset_and_hazards.md R320), or one instruction boundary (60_exceptions.md R280),
where an interrupt is taken or the instruction at the pc runs. -/

namespace Sys2Proof.Machine

/-- The instruction at the pc runs. -/
def runInstruction (s : State) : Result :=
  match fetch s with
  | .unwritten a => .fault (.fetchUnwritten a)
  | .accessFault => .next (raiseFetchFault s)
  | .word w =>
    match decode w with
    | .ok i => exec i s
    | .error _ => .next (foreignStep w s)

/-- An interrupt is taken, or the instruction at the pc runs (R280). -/
def boundary (s : State) : Result :=
  match interruptTaken s with
  | some i => .next (enterInterrupt i s)
  | none => runInstruction s

/-- What a step does once time has passed: the hart sleeps on or comes to a boundary. -/
def stepAfterTick (s : State) : Result :=
  if s.sleeping then .next s else boundary s

/-- What a step does once the machine is not refused: it is a reset where the step's input says so (R14, R320), else time passes
and the hart goes on. -/
def stepOrReset (s : State) : Result :=
  match (nextInput s).reset with
  | some r => .next (cpuReset r s)
  | none => stepAfterTick (tick s)

/-- Memory with an instruction word stored at the pc, the hart awake, and the input of the next step without a reset and without an
interrupt, so that the next step fetches the word (log 27). -/
def placeWord (w : Word) (s : State) : State :=
  { s with
    mem := Memory.writeBytes s.mem s.pc (bytesOfWord w)
    sleeping := false
    inputs := { nextInput s with reset := none, takeIrq := false } :: s.inputs.tail }

end Sys2Proof.Machine
end

