-- ==== Sys2Proof/Machine/Step.lean ====
section
/-! DEFINITION. One step of the machine, and the placing of one instruction where the next step fetches it. -/

namespace Sys2Proof.Machine

/-- One step: refused in debug mode (R23) and without Zicsr (R6); else the hart is reset (R320), or time passes (`tick`) and the
hart sleeps on, takes an interrupt or runs the instruction at the pc. -/
def step (s : State) : Host.Outcome State Fault Refusal :=
  match machineRefusal s with
  | some why => .refused why
  | none => stepOrReset s

/-- The state with the table word `w` stored where the next step fetches its instruction. -/
def State.withFetchWord (s : State) (nbits w : Nat) : State := placeWord (tableWord nbits w) s

end Sys2Proof.Machine
end

