-- ==== Sys2Proof/Safety.lean ====
section
/-! DEFINITION. What counts as a legal state and as a safe run, in the terms the statements use. -/

namespace Sys2Proof.Machine

/-- The machine is one the spec gives a meaning to: not in debug mode (10_state.md R23) and with Zicsr (00_scope.md R6). -/
structure Running (s : State) : Prop where
  notDebug : s.debugMode = false
  zicsr : s.cfg.extZicsr = true

/-- Without user mode the hart is in machine mode, MPP is machine mode, and the fields that exist for user mode only are 0 (R22,
R41, R42, R56). -/
structure MachineModeOnly (s : State) : Prop where
  priv : s.priv = .machine
  mpp : s.mstatus.mpp = .machine
  mprv : s.mstatus.mprv = false
  tw : s.mstatus.tw = false
  cy : s.mcounteren.cy = false
  ir : s.mcounteren.ir = false

/-- One monitor's registers hold only bits that exist (11 R119, R121, R123). -/
structure LegalMonitor (c : Cfg) (n : Nat) (m : HpmMonitor) : Prop where
  surplus : monitorReal c n = false → m = {}
  event : m.event &&& ~~~hpmEventMask = 0
  cnt : m.cnt &&& ~~~widthMask c.hpmCntWidth = 0

/-- Every register holds a legal value, every hardwired bit its constant, and memory is in canonical form. -/
structure Legal (s : State) : Prop where
  cfg : s.cfg.wellFormed = true
  notDebug : s.debugMode = false
  /-- R21, R162. -/
  pc : s.cfg.alignedPc s.pc = true
  /-- R62. -/
  mepc : s.cfg.alignedPc s.mepc = true
  /-- R22. -/
  user : s.cfg.extU = false → MachineModeOnly s
  /-- R20: registers the E extension takes away hold nothing. -/
  regs : ∀ r : RegNum, RegNum.existsIn s.cfg r = false → readX s r = 0
  /-- R35. -/
  fpu : s.cfg.extZfinx = false → s.fflags = 0 ∧ s.frm = 0
  /-- R49. -/
  mie : s.mie &&& ~~~mieMask = 0
  /-- R51. -/
  mtvec : mtvecLegal s.mtvec = true
  /-- R127. -/
  inhibit : s.mcountinhibit &&& ~~~mcountinhibitMask s.cfg = 0
  /-- R110. -/
  counters : s.cfg.extZicntr = false → s.cycle = 0 ∧ s.instret = 0
  /-- R100, R27. -/
  pmpSurplus : ∀ i, s.cfg.pmpNumRegions ≤ i → s.region i = {}
  /-- R104. -/
  pmpModes : ∀ i, s.cfg.implementsMode (s.region i).a = true
  hpm : ∀ n, LegalMonitor s.cfg n (s.monitor n)
  /-- R160. -/
  memory : Memory.wf s.mem = true

/-- Region `i` is locked (11 R105). -/
abbrev State.locked (s : State) (i : Nat) : Prop := i < s.cfg.pmpNumRegions ∧ (s.region i).l = true

/-- Region `i` is locked in TOR mode, which freezes the address register below it too (R108). -/
abbrev State.lockedTor (s : State) (i : Nat) : Prop := s.locked i ∧ (s.region i).a = 1

/-- The configuration and the registers that only machine-mode software may write (60_exceptions.md R291) are unchanged, but for the
counters `mcycle[h]`, `minstret[h]` and `mhpmcounter*[h]`, which time and instructions move, and the trigger registers, whose
values are free. -/
structure SameMachineRegisters (s t : State) : Prop where
  cfg : t.cfg = s.cfg
  mstatus : t.mstatus = s.mstatus
  mie : t.mie = s.mie
  mtvec : t.mtvec = s.mtvec
  mcounteren : t.mcounteren = s.mcounteren
  mscratch : t.mscratch = s.mscratch
  mepc : t.mepc = s.mepc
  mcause : t.mcause = s.mcause
  mtval : t.mtval = s.mtval
  mtinst : t.mtinst = s.mtinst
  pmp : t.pmp = s.pmp
  events : ∀ n, (t.monitor n).event = (s.monitor n).event
  mcountinhibit : t.mcountinhibit = s.mcountinhibit

/-- Two user-mode states that agree on all that user-mode software can see (R291) and may differ in every register of class M. -/
structure SameUserView (s s' : State) : Prop where
  cfg : s'.cfg = s.cfg
  x : s'.x = s.x
  pc : s'.pc = s.pc
  user : s.priv = .user ∧ s'.priv = .user
  debugMode : s'.debugMode = s.debugMode
  fflags : s'.fflags = s.fflags
  frm : s'.frm = s.frm
  mcounteren : s'.mcounteren = s.mcounteren
  cycle : s'.cycle = s.cycle
  instret : s'.instret = s.instret
  counting : inhibitIR s' = inhibitIR s
  tw : s'.mstatus.tw = s.mstatus.tw

/-- The bit of a source in `mie` and `mip`, which is its cause code too (60_exceptions.md R272). -/
def irqBit : IrqSource → Nat
  | .msi => 3
  | .mti => 7
  | .mei => 11
  | .firq n => 16 + n.val

/-- A source can cause a trap now, in the terms of the CSRs (60_exceptions.md R277). -/
def CanInterrupt (s : State) (i : IrqSource) : Prop :=
  (s.priv = .user ∨ (s.priv = .machine ∧ s.mstatus.mie = true))
    ∧ (csrRead .mip s).getLsbD (irqBit i) = true
    ∧ (csrRead .mie s).getLsbD (irqBit i) = true

/-- The state after an instruction that changes only the pc and counts itself (40_zicsr_access.md R220). -/
def advanced (s : State) : State := { s with pc := s.pc + 4, instret := instretNext s }

/-- `t` is `s` after the exception `code` was taken at the pc of `s` (60_exceptions.md R281 to R285): `mepc`, `mcause`, `mstatus`, the
mode and the pc are as trap entry leaves them, and the general registers, memory and every other machine register stay. -/
structure EnteredException (code : BitVec 5) (s t : State) : Prop where
  mepc : t.mepc = alignPc s.cfg s.pc
  mcause : t.mcause = { interrupt := false, code := code }
  mstatus : t.mstatus =
    { mie := false
      mpie := s.mstatus.mie
      mpp := if s.cfg.extU && s.priv == .user then .user else .machine
      mprv := s.mstatus.mprv
      tw := s.mstatus.tw }
  priv : t.priv = .machine
  pc : t.pc = trapTarget s false code
  x : t.x = s.x
  mem : t.mem = s.mem
  cfg : t.cfg = s.cfg
  frm : t.frm = s.frm
  mie : t.mie = s.mie
  mtvec : t.mtvec = s.mtvec
  mcounteren : t.mcounteren = s.mcounteren
  mscratch : t.mscratch = s.mscratch
  pmp : t.pmp = s.pmp
  mcountinhibit : t.mcountinhibit = s.mcountinhibit

/-- `mtinst` of `t` records the instruction word `w` (10_state.md R67, 60_exceptions.md R284): a 32-bit instruction itself, a
compressed one, which needs the C extension, as its expansion with bit 1 cleared (log 24). -/
def RecordsInsn (w : Word) (t : State) : Prop :=
  (w.extractLsb' 0 2 = 0b11#2 → t.mtinst = w)
    ∧ (t.cfg.extC = true → w.extractLsb' 0 2 ≠ 0b11#2 →
      t.mtinst = Config.decompress (w.extractLsb' 0 16) &&& 0xFFFFFFFD)

/-- The address range of region `i` takes in the byte at `b`, by the arithmetic of 20_memory.md R171: OFF nothing, TOR from the
address below to its own, NA4 four bytes, NAPOT the aligned block of 2^(k+3) bytes for `k` trailing ones of the address field. -/
def RegionCovers (s : State) (i : Nat) (b : Word) : Prop :=
  let p := (s.region i).addr
  let lo : Nat := if i = 0 then 0 else (s.region (i - 1)).addr.toNat
  ((s.region i).a = 0b01#2 ∧ lo ≤ b.toNat / 4 ∧ b.toNat / 4 < p.toNat)
    ∨ ((s.region i).a = 0b10#2 ∧ b.toNat / 4 = p.toNat)
    ∨ ((s.region i).a = 0b11#2
      ∧ ∃ k, k ≤ 30 ∧ (∀ j, j < k → p.getLsbD j = true) ∧ p.getLsbD k = false
        ∧ b.toNat / 2 ^ (k + 3) = p.toNat / 2 ^ (k + 1))

/-- Region `i` takes in some of the `n` bytes at `a`. -/
def CoversSome (s : State) (i : Nat) (a : Word) (n : Nat) : Prop := ∃ j, j < n ∧ RegionCovers s i (a + BitVec.ofNat 32 j)

/-- Region `i` takes in all of the `n` bytes at `a`. -/
def CoversAll (s : State) (i : Nat) (a : Word) (n : Nat) : Prop := ∀ j, j < n → RegionCovers s i (a + BitVec.ofNat 32 j)

/-- The address names a CSR that the configuration, which has Zicsr, implements: the address and "exists when" columns of the table of
R24 (10_state.md). -/
abbrev ImplementedAt (c : Cfg) (a : CsrAddr) : Prop :=
  a ∈ [0x300, 0x301, 0x304, 0x305, 0x310, 0x320, 0x340, 0x341, 0x342, 0x343, 0x344, 0x34a, 0xbc0, 0xf11, 0xf12, 0xf13, 0xf14,
      0xf15, 0xfc0]
    ∨ (a ∈ [0x001, 0x002, 0x003] ∧ c.extZfinx = true)
    ∨ (a ∈ [0x306, 0x30a, 0x31a] ∧ c.extU = true)
    ∨ (((0x3a0 ≤ a ∧ a ≤ 0x3a3) ∨ (0x3b0 ≤ a ∧ a ≤ 0x3bf)) ∧ c.extSmpmp = true)
    ∨ (a ∈ [0xb00, 0xb02, 0xb80, 0xb82, 0xc00, 0xc02, 0xc80, 0xc82] ∧ c.extZicntr = true)
    ∨ (((0x323 ≤ a ∧ a ≤ 0x32f) ∨ (0xb03 ≤ a ∧ a ≤ 0xb0f) ∨ (0xb83 ≤ a ∧ a ≤ 0xb8f)) ∧ c.extZihpm = true)
    ∨ (a ∈ [0x7a0, 0x7a1, 0x7a2, 0x7a4] ∧ c.extSdtrig = true)
    ∨ (a ∈ [0x7b0, 0x7b1, 0x7b2] ∧ c.extSdext = true)

/-- The access check of R28 (10_state.md) outside debug mode, by addresses: the CSR is implemented and no debug CSR; a CSR of a class
other than URW and URO needs machine mode; a user-mode counter needs machine mode or its bit of `mcounteren`; a read-only CSR is not
written. -/
abbrev CheckPasses (a : CsrAddr) (wr : Bool) (s : State) : Prop :=
  ImplementedAt s.cfg a
    ∧ a ∉ [0x7b0, 0x7b1, 0x7b2]
    ∧ (a ∈ [0x001, 0x002, 0x003, 0xc00, 0xc02, 0xc80, 0xc82] ∨ s.priv = .machine)
    ∧ (a ∈ [0xc00, 0xc80] → s.priv = .machine ∨ s.mcounteren.cy = true)
    ∧ (a ∈ [0xc02, 0xc82] → s.priv = .machine ∨ s.mcounteren.ir = true)
    ∧ (wr = true → a ∉ [0xc00, 0xc02, 0xc80, 0xc82, 0xf11, 0xf12, 0xf13, 0xf14, 0xf15, 0xfc0])

/-- The table of R24 (10_state.md) row by row, its ranges written out: address, register, access class. -/
def csrTable : List (CsrAddr × Csr × AccessClass) :=
  List.flatten
    [[(0x001, .fflags, .urw), (0x002, .frm, .urw), (0x003, .fcsr, .urw), (0x300, .mstatus, .mrw), (0x301, .misa, .mrw),
      (0x304, .mie, .mrw), (0x305, .mtvec, .mrw), (0x306, .mcounteren, .mrw), (0x30a, .menvcfg, .mrw),
      (0x310, .mstatush, .mrw), (0x31a, .menvcfgh, .mrw), (0x320, .mcountinhibit, .mrw)],
    [(0x323, .mhpmevent 0, .mrw), (0x324, .mhpmevent 1, .mrw), (0x325, .mhpmevent 2, .mrw), (0x326, .mhpmevent 3, .mrw),
      (0x327, .mhpmevent 4, .mrw), (0x328, .mhpmevent 5, .mrw), (0x329, .mhpmevent 6, .mrw), (0x32a, .mhpmevent 7, .mrw),
      (0x32b, .mhpmevent 8, .mrw), (0x32c, .mhpmevent 9, .mrw), (0x32d, .mhpmevent 10, .mrw), (0x32e, .mhpmevent 11, .mrw),
      (0x32f, .mhpmevent 12, .mrw)],
    [(0x340, .mscratch, .mrw), (0x341, .mepc, .mrw), (0x342, .mcause, .mrw), (0x343, .mtval, .mrw), (0x344, .mip, .mrw),
      (0x34a, .mtinst, .mrw), (0x3a0, .pmpcfg 0, .mrw), (0x3a1, .pmpcfg 1, .mrw), (0x3a2, .pmpcfg 2, .mrw),
      (0x3a3, .pmpcfg 3, .mrw), (0x3b0, .pmpaddr 0, .mrw), (0x3b1, .pmpaddr 1, .mrw), (0x3b2, .pmpaddr 2, .mrw),
      (0x3b3, .pmpaddr 3, .mrw), (0x3b4, .pmpaddr 4, .mrw), (0x3b5, .pmpaddr 5, .mrw), (0x3b6, .pmpaddr 6, .mrw),
      (0x3b7, .pmpaddr 7, .mrw), (0x3b8, .pmpaddr 8, .mrw), (0x3b9, .pmpaddr 9, .mrw), (0x3ba, .pmpaddr 10, .mrw),
      (0x3bb, .pmpaddr 11, .mrw), (0x3bc, .pmpaddr 12, .mrw), (0x3bd, .pmpaddr 13, .mrw), (0x3be, .pmpaddr 14, .mrw),
      (0x3bf, .pmpaddr 15, .mrw)],
    [(0x7a0, .tselect, .mrw), (0x7a1, .tdata1, .mrw), (0x7a2, .tdata2, .mrw), (0x7a4, .tinfo, .mrw), (0x7b0, .dcsr, .drw),
      (0x7b1, .dpc, .drw), (0x7b2, .dscratch0, .drw), (0xb00, .mcycle, .mrw), (0xb02, .minstret, .mrw),
      (0xb03, .mhpmcounter 0, .mrw), (0xb04, .mhpmcounter 1, .mrw), (0xb05, .mhpmcounter 2, .mrw),
      (0xb06, .mhpmcounter 3, .mrw), (0xb07, .mhpmcounter 4, .mrw), (0xb08, .mhpmcounter 5, .mrw),
      (0xb09, .mhpmcounter 6, .mrw), (0xb0a, .mhpmcounter 7, .mrw), (0xb0b, .mhpmcounter 8, .mrw),
      (0xb0c, .mhpmcounter 9, .mrw), (0xb0d, .mhpmcounter 10, .mrw), (0xb0e, .mhpmcounter 11, .mrw),
      (0xb0f, .mhpmcounter 12, .mrw)],
    [(0xb80, .mcycleh, .mrw), (0xb82, .minstreth, .mrw), (0xb83, .mhpmcounterh 0, .mrw), (0xb84, .mhpmcounterh 1, .mrw),
      (0xb85, .mhpmcounterh 2, .mrw), (0xb86, .mhpmcounterh 3, .mrw), (0xb87, .mhpmcounterh 4, .mrw),
      (0xb88, .mhpmcounterh 5, .mrw), (0xb89, .mhpmcounterh 6, .mrw), (0xb8a, .mhpmcounterh 7, .mrw),
      (0xb8b, .mhpmcounterh 8, .mrw), (0xb8c, .mhpmcounterh 9, .mrw), (0xb8d, .mhpmcounterh 10, .mrw),
      (0xb8e, .mhpmcounterh 11, .mrw), (0xb8f, .mhpmcounterh 12, .mrw), (0xbc0, .mxcsr, .mrw)],
    [(0xc00, .cycle, .uro), (0xc02, .instret, .uro), (0xc80, .cycleh, .uro), (0xc82, .instreth, .uro),
      (0xf11, .mvendorid, .mro), (0xf12, .marchid, .mro), (0xf13, .mimpid, .mro), (0xf14, .mhartid, .mro),
      (0xf15, .mconfigptr, .mro), (0xfc0, .mxisa, .mro)]]

/-- Two CSRs show the same storage (10_state.md R31): the floating-point views, and each counter word and its user-mode view. -/
def sharesStorage : Csr → Csr → Bool
  | .fflags, .fcsr => true
  | .fcsr, .fflags => true
  | .frm, .fcsr => true
  | .fcsr, .frm => true
  | .mcycle, .cycle => true
  | .mcycleh, .cycleh => true
  | .minstret, .instret => true
  | .minstreth, .instreth => true
  | a, b => a == b

/-- A CSR of class MRW that ignores every write (10_state.md R29). -/
def ignoresWrites (c : Cfg) : Csr → Bool
  | .misa | .mstatush | .menvcfg | .menvcfgh | .mcause | .mtval | .mtinst | .mip | .mxcsr => true
  | .pmpcfg k => decide (c.pmpNumRegions ≤ 4 * k.val)
  | .pmpaddr i => decide (c.pmpNumRegions ≤ i.val)
  | .mhpmevent n | .mhpmcounter n | .mhpmcounterh n => !monitorReal c n.val
  | _ => false

/-- A CSR of the trigger module, whose write access is refused (11 R140). -/
def isTriggerCsr : Csr → Bool
  | .tselect | .tdata1 | .tdata2 | .tinfo => true
  | _ => false

/-- A CSR of debug mode (11 R141). -/
def isDebugCsr : Csr → Bool
  | .dcsr | .dpc | .dscratch0 => true
  | _ => false

end Sys2Proof.Machine
end

