-- ==== Sys2Proof/Certificates/Slice0/Obligations.lean ====
section
/-! DEFINITION. The statements for the provers. A rule of spec/ is cited R<n>; "log <n>" is a row of notes/assumptions. -/

open Sys2Proof Sys2Proof.Machine

/-! ## Encoding -/

/-- Decoding the word of an instruction, or the bytes of that word as memory holds them, gives the instruction back (R191, R192,
R194; log 12; log 22). -/
def Obligations.DecodeOfEncode : Prop :=
  ∀ i : Instr, decode (encode i) = .ok i ∧ decodeBytes (bytesOfWord (encode i)) = .ok i

/-- A word that decodes is the word of the instruction it decodes to: no bit of it is dropped (R194; log 12). -/
def Obligations.EncodeOfDecode : Prop :=
  ∀ (w : Word) (i : Instr), decode w = .ok i → encode i = w

/-- A word decodes to an instruction if and only if it agrees with the row's match under the row's mask (R194; log 12). -/
def Obligations.DecodeAcceptsExactlyTheTable : Prop :=
  ∀ w : Word,
    ((∃ rd csr rs1, decode w = .ok (.csrrw rd csr rs1)) ↔ w &&& 0x0000707f = 0x00001073)
    ∧ ((∃ rd csr rs1, decode w = .ok (.csrrs rd csr rs1)) ↔ w &&& 0x0000707f = 0x00002073)
    ∧ ((∃ rd csr rs1, decode w = .ok (.csrrc rd csr rs1)) ↔ w &&& 0x0000707f = 0x00003073)
    ∧ ((∃ rd csr uimm, decode w = .ok (.csrrwi rd csr uimm)) ↔ w &&& 0x0000707f = 0x00005073)
    ∧ ((∃ rd csr uimm, decode w = .ok (.csrrsi rd csr uimm)) ↔ w &&& 0x0000707f = 0x00006073)
    ∧ ((∃ rd csr uimm, decode w = .ok (.csrrci rd csr uimm)) ↔ w &&& 0x0000707f = 0x00007073)
    ∧ (decode w = .ok .mret ↔ w &&& 0xffffffff = 0x30200073)
    ∧ (decode w = .ok .wfi ↔ w &&& 0xffffffff = 0x10500073)

/-- The decode vectors of 95_test_vectors.md V8: eight words and the instructions they stand for, and five words that are not in
scope (R196; log 12). -/
def Obligations.DecodeOfSpecWords : Prop :=
  decode 0xf1402573 = .ok (.csrrs 10 0xf14 0)
  ∧ decode 0x30529073 = .ok (.csrrw 0 0x305 5)
  ∧ decode 0x30433073 = .ok (.csrrc 0 0x304 6)
  ∧ decode 0x340ad073 = .ok (.csrrwi 0 0x340 21)
  ∧ decode 0x340562f3 = .ok (.csrrsi 5 0x340 10)
  ∧ decode 0x3401f373 = .ok (.csrrci 6 0x340 3)
  ∧ decode 0x30200073 = .ok .mret
  ∧ decode 0x10500073 = .ok .wfi
  ∧ decode 0x00000073 = .error .otherFunct12
  ∧ decode 0x00100073 = .error .otherFunct12
  ∧ decode 0x30200173 = .error .otherFunct12
  ∧ decode 0x34004073 = .error .reservedFunct3
  ∧ decode 0x00438393 = .error .otherOpcode

/-! ## The step -/

/-- A step of a running hart that is not reset, whose boundary takes no interrupt and whose pc holds the bytes of an instruction
is that instruction's meaning, in the state in which time has passed; the passing of time leaves the pc, the registers, the mode
and memory alone, and `mip` shows the request lines (log 4). That the bytes run are those memory holds at the pc, also where an
earlier step has just stored them, is the model's choice, which the spec says not to presume (log 35; R184, N13), and so is
their byte order (log 22). -/
def Obligations.StepRunsDecodedInstruction : Prop :=
  ∀ (s : State) (b0 b1 b2 b3 : Byte) (i : Instr),
    Running s → (nextInput s).reset = none →
    s.readByte s.pc.toNat = some b0 → s.readByte (s.pc + 1).toNat = some b1 →
    s.readByte (s.pc + 2).toNat = some b2 → s.readByte (s.pc + 2 + 1).toNat = some b3 →
    decodeBytes [b0, b1, b2, b3] = .ok i →
    pmpAllows .fetch s.pc 2 s = true → pmpAllows .fetch s.pc 4 s = true →
    staysAsleep (nextInput s) s = false → interruptTaken (tick s) = none →
    step s = exec i (tick s)
      ∧ (tick s).pc = s.pc ∧ (tick s).x = s.x ∧ (tick s).priv = s.priv ∧ (tick s).mem = s.mem
      ∧ (tick s).fflags = s.fflags ∧ (tick s).frm = s.frm ∧ (tick s).instret = s.instret ∧ (tick s).mip = (nextInput s).irq
      ∧ SameMachineRegisters s (tick s)

/-- A step of a running hart that is not reset, is awake and takes an interrupt is the interrupt's entry, in the state in which
time has passed; it executes no instruction (R280, R285; log 9). -/
def Obligations.StepTakesInterrupt : Prop :=
  ∀ (s : State) (i : IrqSource),
    Running s → (nextInput s).reset = none → staysAsleep (nextInput s) s = false → interruptTaken (tick s) = some i →
    step s = .next (enterInterrupt i (tick s)) ∧ (enterInterrupt i (tick s)).instret = s.instret

/-- A step of a running hart that is not reset, is awake and takes no interrupt, and whose fetch the PMP denies, either the two
lowest bytes at the pc or the four bytes of a 32-bit instruction, takes the instruction access fault, code 1, with its own pc
(R174, R281 to R283; log 13; log 14); `mtinst` records the instruction in memory by R67 (R284; `mtval` and the count are free,
log 10; the two checks are the model's choice, log 14, the length rule log 22, the expansion log 24). -/
def Obligations.DeniedFetchTakesAccessFault : Prop :=
  ∀ s : State,
    Running s → (nextInput s).reset = none → staysAsleep (nextInput s) s = false → interruptTaken (tick s) = none →
    (pmpAllows .fetch s.pc 2 (tick s) = false
      ∨ ∃ b0 b1, s.readByte s.pc.toNat = some b0 ∧ s.readByte (s.pc + 1).toNat = some b1
          ∧ (s.cfg.extC = false ∨ b0.extractLsb' 0 2 = 0b11#2) ∧ pmpAllows .fetch s.pc 4 (tick s) = false) →
    ∃ t, step s = .next t
      ∧ EnteredException 1 s t ∧ t.fflags = s.fflags ∧ (t.instret = s.instret ∨ t.instret = instretNext s)
      ∧ ∀ b0 b1, s.readByte s.pc.toNat = some b0 → s.readByte (s.pc + 1).toNat = some b1 →
          (b0.extractLsb' 0 2 ≠ 0b11#2 → RecordsInsn ((b1 ++ b0).setWidth 32) t)
          ∧ ∀ b2 b3, s.readByte (s.pc + 2).toNat = some b2 → s.readByte (s.pc + 2 + 1).toNat = some b3 →
              b0.extractLsb' 0 2 = 0b11#2 → RecordsInsn (b3 ++ b2 ++ b1 ++ b0) t

/-- A hart that sleeps on and is not reset executes nothing: the step completes, the cycle counter, the instruction counter, the
registers, the pc and memory stand still, and no pending source is enabled in `mie` (R253; log 8). -/
def Obligations.SleepingHartIdles : Prop :=
  ∀ s : State,
    Running s → (nextInput s).reset = none → staysAsleep (nextInput s) s = true →
    step s = .next (tick s)
      ∧ (tick s).sleeping = true ∧ (tick s).cycle = s.cycle ∧ (tick s).instret = s.instret
      ∧ (tick s).x = s.x ∧ (tick s).pc = s.pc ∧ (tick s).mem = s.mem
      ∧ csrRead .mip (tick s) &&& csrRead .mie (tick s) = 0

/-- Out-of-scope words (R14, R36, R114; that all else about them is free is the model's choice, log 23): the step completes and
is `foreignStep`; it is counted and clears no accrued flag. Without an exception, and with no data access that the PMP denies,
the registers of `SameMachineRegisters`, the mode and the rounding mode keep their values. With an exception of its own the step
takes that exception; else, with a denied access, the access fault of the first one, code 5 for a load and 7 for a store (R174;
log 14); `mtinst` records the word by R67 (log 24) and `mtval` is 0 for an illegal instruction (D36, log 11). The codes of the
ten exceptions are those of R271 (log 13). That a word whose bits 4:0 are 11111, which R190 leaves open, is among the 32-bit
words is the model's choice (log 22). -/
def Obligations.OutOfScopeWordKeepsMachineRegisters : Prop :=
  ([.instrAddrMisaligned, .instrAccessFault, .illegalInstruction, .breakpoint, .loadAddrMisaligned, .loadAccessFault,
      .storeAddrMisaligned, .storeAccessFault, .ecallFromU, .ecallFromM].map ExcCause.code = [0, 1, 2, 3, 4, 5, 6, 7, 8, 11])
  ∧ ∀ (s : State) (w : Word) (e : DecodeError),
    Running s → (nextInput s).reset = none → staysAsleep (nextInput s) s = false → interruptTaken (tick s) = none →
    fetch (tick s) = .word w → decode w = .error e →
    let t := foreignStep w (tick s)
    let f := (nextInput s).foreign
    step s = .next t
      ∧ t.instret = instretNext s ∧ t.fflags &&& s.fflags = s.fflags ∧ t.cycle = (tick s).cycle ∧ t.hpm = (tick s).hpm
      ∧ (f.exception = none → (∀ a ∈ f.accesses, MemAccess.denied (tick s) a = false) →
          SameMachineRegisters s t ∧ t.priv = s.priv ∧ t.frm = s.frm)
      ∧ (∀ c, f.exception = some c →
          EnteredException (ExcCause.code c) s t ∧ RecordsInsn w t ∧ (c = .illegalInstruction → t.mtval = 0))
      ∧ (f.exception = none → ∀ before a after, f.accesses = before ++ a :: after →
          (∀ b ∈ before, MemAccess.denied (tick s) b = false) → MemAccess.denied (tick s) a = true →
          EnteredException (match a with | .load _ _ => 5 | .store _ _ => 7) s t ∧ RecordsInsn w t)

/-! ## Traps -/

/-- Where a trap goes (R52): in DIRECT mode, and for an exception, the base; in VECTORED mode, for an interrupt, its entry of
the table, with no carry out of bits 6:2. -/
def Obligations.TrapTargetAddress : Prop :=
  ∀ (interrupt : Bool) (code : BitVec 5) (epc mtval mtinst : Word) (s : State),
    mtvecLegal s.mtvec = true →
    (trapEntry interrupt code epc mtval mtinst s).pc =
      if s.mtvec.extractLsb' 0 2 = 0b00#2 then s.mtvec.extractLsb' 2 30 ++ 0b00#2
      else if interrupt then s.mtvec.extractLsb' 7 25 ++ code ++ 0b00#2
      else s.mtvec.extractLsb' 2 30 ++ 0b00#2

/-- Entry of an interrupt (R272, R281, R282, R284): what is saved, what the status and the mode become, and that nothing else
changes (log 10; log 13); then `mcause` reads the interrupt bit 31 and the code of R272, bits 30:5 zero (R63), `mtval` and
`mtinst` read what entry stored (R65, R66), and `mip` reads the request line of each source (R70). -/
def Obligations.InterruptEntryRecords : Prop :=
  ∀ (i : IrqSource) (s : State),
    let t := enterInterrupt i s
    t =
      { s with
        mepc := s.pc &&& (if s.cfg.extC then 0xFFFFFFFE else 0xFFFFFFFC)
        mcause := { interrupt := true, code := BitVec.ofNat 5 (irqBit i) }
        mstatus :=
          { mie := false
            mpie := s.mstatus.mie
            mpp := if s.cfg.extU && s.priv == .user then .user else .machine
            mprv := s.mstatus.mprv
            tw := s.mstatus.tw }
        priv := .machine
        pc := trapTarget s true (BitVec.ofNat 5 (irqBit i))
        mtval := s.draw.mtval
        mtinst := s.draw.mtinst }
    ∧ csrRead .mcause t = 0x80000000 ||| BitVec.ofNat 32 (irqBit i)
    ∧ csrRead .mtval t = s.draw.mtval ∧ csrRead .mtinst t = s.draw.mtinst
    ∧ ∀ k, k < 32 → (csrRead .mip t).getLsbD k =
      match k with
      | 3 => s.mip.msi
      | 7 => s.mip.mti
      | 11 => s.mip.mei
      | _ => decide (16 ≤ k) && s.mip.firq.getLsbD (k - 16)

/-- The illegal-instruction exception of an in-scope instruction (R229, R270, R281, R282, R284): what is saved, the
instruction's own word in `mtinst`, that the instruction is counted and that nothing else changes; then `mcause` reads 2 (R63)
and `mepc`, `mtval` and `mtinst` read what entry stored (R61, R65, R66). `mtval` = 0 is decision D36 (log 11; log 13). -/
def Obligations.IllegalInstructionEntry : Prop :=
  ∀ (i : Instr) (s : State),
    let t := raiseIllegal i s
    t =
      { s with
        mepc := s.pc &&& (if s.cfg.extC then 0xFFFFFFFE else 0xFFFFFFFC)
        mcause := { interrupt := false, code := 2 }
        mstatus :=
          { mie := false
            mpie := s.mstatus.mie
            mpp := if s.cfg.extU && s.priv == .user then .user else .machine
            mprv := s.mstatus.mprv
            tw := s.mstatus.tw }
        priv := .machine
        pc := trapTarget s false 2
        mtval := 0
        mtinst := encode i
        instret := instretNext s }
    ∧ csrRead .mcause t = 0x00000002
    ∧ csrRead .mepc t = s.pc &&& (if s.cfg.extC then 0xFFFFFFFE else 0xFFFFFFFC)
    ∧ csrRead .mtval t = 0x00000000 ∧ csrRead .mtinst t = encode i

/-- An interrupt is taken only if it can be (R277), only the configured order's first of those that can be (R278), and some one
is taken where one can be and the step's draw says so (R280, D48; log 9). -/
def Obligations.InterruptTakenIffTakeable : Prop :=
  ∀ s : State, s.cfg.wellFormed = true →
    (∀ i, interruptTaken s = some i →
      s.draw.takeIrq = true ∧ CanInterrupt s i
        ∧ ∃ before after, s.cfg.irqPriority = before ++ i :: after ∧ ∀ j ∈ before, ¬ CanInterrupt s j)
    ∧ (s.draw.takeIrq = true → (∃ i, CanInterrupt s i) → ∃ i, interruptTaken s = some i)

/-- A trap taken from a mode the hart has, and the return from it with nothing in between, resume the interrupted program: same
pc, same mode, same interrupt enable (R286; log 12; log 13). -/
def Obligations.TrapThenReturnResumes : Prop :=
  ∀ (interrupt : Bool) (code : BitVec 5) (mtval mtinst : Word) (s : State),
    s.cfg.alignedPc s.pc = true → (s.cfg.extU = false → s.priv = .machine) →
    let t := trapReturn (trapEntry interrupt code s.pc mtval mtinst s)
    t.pc = s.pc ∧ t.priv = s.priv ∧ t.mstatus.mie = s.mstatus.mie ∧ t.mstatus.mpie = true
      ∧ t.mstatus.mprv = (s.mstatus.mprv && s.priv == .machine) ∧ t.x = s.x ∧ t.mem = s.mem

/-! ## The instructions -/

/-- `csrrw` completes where the access check of R28 passes (`CheckPasses`, log 29; R220, R222): the CSR is written with the
source register, `rd` gets the old value, the pc advances by 4, and the instruction is counted unless it writes `minstret[h]`
(R114; log 12; log 19; log 31). Where the CSR is `mtvec` and the value is not a legal one, that the write completes is the
model's choice; R51 and D14 have the model refuse such a program (log 5). Write accesses to the trigger registers stop by name
(O27; log 6). -/
def Obligations.CsrrwCompletes : Prop :=
  ∀ (rd : RegNum) (c : Csr) (rs1 : RegNum) (s : State),
    Running s → (Instr.csrrw rd c.addr rs1).wellFormed s.cfg = true → CheckPasses c.addr true s →
    isTriggerCsr c = false → isDebugCsr c = false →
    ∃ u, csrWrite c (readX s rs1) s = .ok u
      ∧ exec (.csrrw rd c.addr rs1) s = .next (writeX rd (csrRead c s)
          { u with pc := s.pc + 4, instret := if c.isInstret then u.instret else instretNext s })

/-- `csrrs` completes where the access check of R28 passes (`CheckPasses`, log 29; R220, R221, R223): with `rs1` = `x0` it only
reads, on any CSR that passes; else it writes the old value with the bits of the source register set (log 12; log 19; log 31).
That the read of a trigger register completes, with a free value, is the model's choice; R140 and D28 have the model refuse that
access (log 6). Where the CSR is `mtvec` and the value is not a legal one, that the write completes is the model's choice; R51
and D14 have the model refuse such a program (log 5). Write accesses to the trigger registers stop by name (O27; log 6). -/
def Obligations.CsrrsCompletes : Prop :=
  ∀ (rd : RegNum) (c : Csr) (rs1 : RegNum) (s : State),
    Running s → (Instr.csrrs rd c.addr rs1).wellFormed s.cfg = true →
    (rs1 = 0 → CheckPasses c.addr false s →
      exec (.csrrs rd c.addr rs1) s = .next (writeX rd (csrRead c s) (advanced s)))
    ∧ (rs1 ≠ 0 → CheckPasses c.addr true s → isTriggerCsr c = false → isDebugCsr c = false →
      ∃ u, csrWrite c (csrRead c s ||| readX s rs1) s = .ok u
        ∧ exec (.csrrs rd c.addr rs1) s = .next (writeX rd (csrRead c s)
            { u with pc := s.pc + 4, instret := if c.isInstret then u.instret else instretNext s }))

/-- `csrrc` completes where the access check of R28 passes (`CheckPasses`, log 29; R220, R221, R224): with `rs1` = `x0` it only
reads, on any CSR that passes; else it writes the old value with the bits of the source register cleared (log 12; log 19; log
31). That the read of a trigger register completes, with a free value, is the model's choice; R140 and D28 have the model refuse
that access (log 6). Where the CSR is `mtvec` and the value is not a legal one, that the write completes is the model's choice;
R51 and D14 have the model refuse such a program (log 5). Write accesses to the trigger registers stop by name (O27; log 6). -/
def Obligations.CsrrcCompletes : Prop :=
  ∀ (rd : RegNum) (c : Csr) (rs1 : RegNum) (s : State),
    Running s → (Instr.csrrc rd c.addr rs1).wellFormed s.cfg = true →
    (rs1 = 0 → CheckPasses c.addr false s →
      exec (.csrrc rd c.addr rs1) s = .next (writeX rd (csrRead c s) (advanced s)))
    ∧ (rs1 ≠ 0 → CheckPasses c.addr true s → isTriggerCsr c = false → isDebugCsr c = false →
      ∃ u, csrWrite c (csrRead c s &&& ~~~readX s rs1) s = .ok u
        ∧ exec (.csrrc rd c.addr rs1) s = .next (writeX rd (csrRead c s)
            { u with pc := s.pc + 4, instret := if c.isInstret then u.instret else instretNext s }))

/-- `csrrwi` completes where the access check of R28 passes (`CheckPasses`, log 29; R192, R220, R225): the CSR is written with
the zero-extended immediate (log 12; log 19; log 31). Where the CSR is `mtvec` and the value is not a legal one, that the write
completes is the model's choice; R51 and D14 have the model refuse such a program (log 5). Write accesses to the trigger
registers stop by name (O27; log 6). -/
def Obligations.CsrrwiCompletes : Prop :=
  ∀ (rd : RegNum) (c : Csr) (uimm : BitVec 5) (s : State),
    Running s → (Instr.csrrwi rd c.addr uimm).wellFormed s.cfg = true → CheckPasses c.addr true s →
    isTriggerCsr c = false → isDebugCsr c = false →
    ∃ u, csrWrite c (uimm.setWidth 32) s = .ok u
      ∧ exec (.csrrwi rd c.addr uimm) s = .next (writeX rd (csrRead c s)
          { u with pc := s.pc + 4, instret := if c.isInstret then u.instret else instretNext s })

/-- `csrrsi` completes where the access check of R28 passes (`CheckPasses`, log 29; R192, R220, R221, R226): with `uimm` = 0 it
only reads, on any CSR that passes; else it writes the old value with the bits of the immediate set (log 12; log 19; log 31).
That the read of a trigger register completes, with a free value, is the model's choice; R140 and D28 have the model refuse that
access (log 6). Where the CSR is `mtvec` and the value is not a legal one, that the write completes is the model's choice; R51
and D14 have the model refuse such a program (log 5). Write accesses to the trigger registers stop by name (O27; log 6). -/
def Obligations.CsrrsiCompletes : Prop :=
  ∀ (rd : RegNum) (c : Csr) (uimm : BitVec 5) (s : State),
    Running s → (Instr.csrrsi rd c.addr uimm).wellFormed s.cfg = true →
    (uimm = 0 → CheckPasses c.addr false s →
      exec (.csrrsi rd c.addr uimm) s = .next (writeX rd (csrRead c s) (advanced s)))
    ∧ (uimm ≠ 0 → CheckPasses c.addr true s → isTriggerCsr c = false → isDebugCsr c = false →
      ∃ u, csrWrite c (csrRead c s ||| uimm.setWidth 32) s = .ok u
        ∧ exec (.csrrsi rd c.addr uimm) s = .next (writeX rd (csrRead c s)
            { u with pc := s.pc + 4, instret := if c.isInstret then u.instret else instretNext s }))

/-- `csrrci` completes where the access check of R28 passes (`CheckPasses`, log 29; R192, R220, R221, R227): with `uimm` = 0 it
only reads, on any CSR that passes; else it writes the old value with the bits of the immediate cleared (log 12; log 19; log
31). That the read of a trigger register completes, with a free value, is the model's choice; R140 and D28 have the model refuse
that access (log 6). Where the CSR is `mtvec` and the value is not a legal one, that the write completes is the model's choice;
R51 and D14 have the model refuse such a program (log 5). Write accesses to the trigger registers stop by name (O27; log 6). -/
def Obligations.CsrrciCompletes : Prop :=
  ∀ (rd : RegNum) (c : Csr) (uimm : BitVec 5) (s : State),
    Running s → (Instr.csrrci rd c.addr uimm).wellFormed s.cfg = true →
    (uimm = 0 → CheckPasses c.addr false s →
      exec (.csrrci rd c.addr uimm) s = .next (writeX rd (csrRead c s) (advanced s)))
    ∧ (uimm ≠ 0 → CheckPasses c.addr true s → isTriggerCsr c = false → isDebugCsr c = false →
      ∃ u, csrWrite c (csrRead c s &&& ~~~uimm.setWidth 32) s = .ok u
        ∧ exec (.csrrci rd c.addr uimm) s = .next (writeX rd (csrRead c s)
            { u with pc := s.pc + 4, instret := if c.isInstret then u.instret else instretNext s }))

/-- `mret` in machine mode completes (R250): the five updates of `mstatus` and the mode, the pc is `mepc`, the instruction is
counted, nothing else changes (log 12; log 26). -/
def Obligations.MretCompletes : Prop :=
  ∀ s : State, Running s → s.priv = .machine →
    exec .mret s = .next
      { s with
        mstatus :=
          { mie := s.mstatus.mpie
            mpie := true
            mpp := if s.cfg.extU then .user else .machine
            mprv := s.mstatus.mprv && s.mstatus.mpp == .machine
            tw := s.mstatus.tw }
        priv := s.mstatus.mpp
        pc := s.mepc
        instret := instretNext s }

/-- `wfi` completes unless it runs in user mode with TW set (R252): the pc advances by 4, the instruction is counted, the hart
may sleep, nothing else changes (log 8; log 31). -/
def Obligations.WfiCompletes : Prop :=
  ∀ s : State, Running s → (s.priv = .machine ∨ s.mstatus.tw = false) →
    exec .wfi s = .next { advanced s with sleeping := s.draw.sleep }

/-- `mret` in user mode (R251), and `wfi` in user mode with TW set (R252), raise the illegal-instruction exception (log 12). -/
def Obligations.PrivilegedInstructionsTrapInUserMode : Prop :=
  ∀ s : State, Running s → s.priv = .user →
    exec .mret s = .next (raiseIllegal .mret s)
    ∧ (s.mstatus.tw = true → exec .wfi s = .next (raiseIllegal .wfi s))

/-- No in-scope instruction writes memory: every byte reads as before (20_memory.md R160, R181; 60_exceptions.md R285). -/
def Obligations.InstructionsLeaveMemory : Prop :=
  ∀ (i : Instr) (s t : State), exec i s = .next t → ∀ a, t.readByte a = s.readByte a

/-- The only general register an in-scope instruction changes is its `rd`, never `x0`, and only where its CSR access passes the
check: it then holds the old value of the CSR (R20, R220, R229; log 12). That a read of a trigger register completes, with a
free value, is the model's choice; D28 refuses it (log 6). -/
def Obligations.InstructionsWriteOnlyRd : Prop :=
  ∀ (i : Instr) (s t : State), exec i s = .next t →
    ∀ r : RegNum, readX t r = readX s r
      ∨ (r ≠ 0 ∧ Instr.dest i = some r
        ∧ ∃ c wr, Instr.access i = some (c.addr, wr) ∧ csrAllowed c wr s = true ∧ readX t r = csrRead c s)

/-- The instruction counter after an instruction: a write access to `minstret[h]` that completes, which is one in machine mode
where the counter exists, stores the written value in its word, leaves the other word alone and is not counted (R113; the order
is decision D22, log 19); every other instruction, whether it completes or traps, adds one modulo 2^64, unless the counter is
absent or its inhibit bit, 2, or 0 where the printed table is followed (log 20), is set (R114; log 18). -/
def Obligations.EveryInstructionIsCounted : Prop :=
  ∀ (i : Instr) (s t : State), exec i s = .next t →
    t.instret =
      if Instr.access i = some (0xb02, true) ∧ s.priv = .machine ∧ s.cfg.extZicntr = true then
        s.instret.extractLsb' 32 32 ++ Instr.newValue i s (s.instret.extractLsb' 0 32)
      else if Instr.access i = some (0xb82, true) ∧ s.priv = .machine ∧ s.cfg.extZicntr = true then
        Instr.newValue i s (s.instret.extractLsb' 32 32) ++ s.instret.extractLsb' 0 32
      else if s.cfg.extZicntr = true ∧ s.mcountinhibit.getLsbD (if s.cfg.mcountinhibitAsPrinted then 0 else 2) = false then
        s.instret + 1
      else s.instret

/-- The forms the model refuses by name: a register that the E extension takes away (R20, U14; log 25), a write access to a
trigger register that passes the check (R140, U10; log 6), every instruction and every step in debug mode (R23) and without
Zicsr (R6; log 7; log 30). -/
def Obligations.RefusedFormsStopByName : Prop :=
  ∀ (i : Instr) (s : State),
    (Running s → i.wellFormed s.cfg = false → exec i s = .refused .rv32eRegister)
    ∧ (∀ c, Running s → i.wellFormed s.cfg = true → Instr.access i = some (c.addr, true) → isTriggerCsr c = true →
        csrAllowed c true s = true → exec i s = .refused .triggerWrite)
    ∧ (s.debugMode = true → exec i s = .refused .debugMode ∧ step s = .refused .debugMode)
    ∧ (s.debugMode = false → s.cfg.extZicsr = false → exec i s = .refused .zicsrAbsent ∧ step s = .refused .zicsrAbsent)

/-! ## The access check -/

/-- The address table of R24, written out in `csrTable`, holds exactly the CSRs of the model with their addresses and classes,
no address twice; any access to an address that it does not list raises the illegal-instruction exception, from every mode
(R25). -/
def Obligations.UnlistedCsrTraps : Prop :=
  (∀ c : Csr, (c.addr, c, c.cls) ∈ csrTable)
  ∧ csrTable.length = 99 ∧ (csrTable.map fun r => r.1).Nodup
  ∧ ∀ (i : Instr) (a : CsrAddr) (wr : Bool) (s : State),
    Running s → i.wellFormed s.cfg = true → Instr.access i = some (a, wr) →
    (a ∉ csrTable.map fun r => r.1) →
    exec i s = .next (raiseIllegal i s)

/-- Any access to a CSR whose extension the configuration lacks raises the illegal-instruction exception (R26; for the trigger
registers decision D28); so does, outside debug mode, any access to a debug CSR (R141; log 29). -/
def Obligations.DisabledCsrTraps : Prop :=
  ∀ (i : Instr) (a : CsrAddr) (wr : Bool) (s : State),
    Running s → i.wellFormed s.cfg = true → Instr.access i = some (a, wr) →
    ((a ∈ [0x001, 0x002, 0x003] ∧ s.cfg.extZfinx = false)
      ∨ (a ∈ [0x306, 0x30a, 0x31a] ∧ s.cfg.extU = false)
      ∨ (((0x3a0 ≤ a ∧ a ≤ 0x3a3) ∨ (0x3b0 ≤ a ∧ a ≤ 0x3bf)) ∧ s.cfg.extSmpmp = false)
      ∨ (a ∈ [0xb00, 0xb02, 0xb80, 0xb82, 0xc00, 0xc02, 0xc80, 0xc82] ∧ s.cfg.extZicntr = false)
      ∨ (((0x323 ≤ a ∧ a ≤ 0x32f) ∨ (0xb03 ≤ a ∧ a ≤ 0xb0f) ∨ (0xb83 ≤ a ∧ a ≤ 0xb8f)) ∧ s.cfg.extZihpm = false)
      ∨ (a ∈ [0x7a0, 0x7a1, 0x7a2, 0x7a4] ∧ s.cfg.extSdtrig = false)
      ∨ a ∈ [0x7b0, 0x7b1, 0x7b2]) →
    exec i s = .next (raiseIllegal i s)

/-- In user mode every access to a CSR of a machine or debug class, those whose address bits 9:8 are 11 (R193), raises the
illegal-instruction exception (R28, R291; log 29). -/
def Obligations.MachineCsrTrapsInUserMode : Prop :=
  ∀ (i : Instr) (c : Csr) (wr : Bool) (s : State),
    Running s → i.wellFormed s.cfg = true → Instr.access i = some (c.addr, wr) →
    s.priv = .user → c.addr.extractLsb' 8 2 = 0b11#2 →
    exec i s = .next (raiseIllegal i s)

/-- When the access check passes (R28; log 29): on a running hart the model's check lets an access through if and only if the
CSR is implemented by R24 and no debug CSR, the mode suffices (class MRW and MRO machine mode, URW every mode, URO machine mode
or its `mcounteren` bit), and a read-only CSR is not written; an access to any address that fails it raises the
illegal-instruction exception. In particular a write access to a read-only CSR, one whose address bits 11:10 are 11 (R193),
raises it in every mode (R115, R116, R130, R138). -/
def Obligations.ReadOnlyCsrWriteTraps : Prop :=
  (∀ (c : Csr) (wr : Bool) (s : State), Running s → (csrAllowed c wr s = true ↔ CheckPasses c.addr wr s))
  ∧ (∀ (i : Instr) (a : CsrAddr) (wr : Bool) (s : State),
    Running s → i.wellFormed s.cfg = true → Instr.access i = some (a, wr) → ¬ CheckPasses a wr s →
    exec i s = .next (raiseIllegal i s))
  ∧ ∀ (i : Instr) (c : Csr) (s : State),
    Running s → i.wellFormed s.cfg = true → Instr.access i = some (c.addr, true) →
    c.addr.extractLsb' 10 2 = 0b11#2 →
    exec i s = .next (raiseIllegal i s)

/-- In machine mode an access to a CSR of R29's list, the PMP and HPM registers beyond the configured count among them, never
traps; a write access changes no CSR, though the instruction is counted, and `rd` gets the value the CSR reads (R29). -/
def Obligations.WriteIgnoringCsrsKeepEverything : Prop :=
  ∀ (i : Instr) (c : Csr) (rd : RegNum) (wr : Bool) (s : State),
    Running s → i.wellFormed s.cfg = true → Instr.access i = some (c.addr, wr) → Instr.dest i = some rd →
    s.priv = .machine → c.existsIn s.cfg = true → ignoresWrites s.cfg c = true →
    exec i s = .next (writeX rd (csrRead c s) (advanced s))

/-- The PMP and HPM registers beyond the configured count read zero (R27, R100, R119); so do `mstatush`, `menvcfg` and
`menvcfgh` in every state (R57, R75, R76). -/
def Obligations.SurplusCsrsReadZero : Prop :=
  ∀ s : State,
    (∀ k : Fin 4, s.cfg.pmpNumRegions ≤ 4 * k.val → csrRead (.pmpcfg k) s = 0)
    ∧ (∀ i : Fin 16, s.cfg.pmpNumRegions ≤ i.val → csrRead (.pmpaddr i) s = 0)
    ∧ (∀ n : Fin 13, s.cfg.hpmNumCnts ≤ n.val →
        csrRead (.mhpmevent n) s = 0 ∧ csrRead (.mhpmcounter n) s = 0 ∧ csrRead (.mhpmcounterh n) s = 0)
    ∧ csrRead .mstatush s = 0 ∧ csrRead .menvcfg s = 0 ∧ csrRead .menvcfgh s = 0

/-! ## CSR values and writes -/

/-- A CSR write changes what no other CSR reads, but for the views of the same storage, and touches no general register, no
memory and no other state of the hart (R31). Where the granularity is not the 4 bytes the spec describes, a write of `pmpcfg` is
said nothing about what `pmpaddr` reads, which R107 leaves open (log 15). -/
def Obligations.CsrWriteTouchesOnlyItsStorage : Prop :=
  ∀ (c d : Csr) (v : Word) (s u : State),
    csrWrite c v s = .ok u →
    (sharesStorage c d = false →
      s.cfg.pmpMinGranularity = 4 ∨ (∀ k i, ¬ (c = .pmpcfg k ∧ d = .pmpaddr i)) →
      csrRead d u = csrRead d s)
    ∧ u.cfg = s.cfg ∧ u.x = s.x ∧ u.pc = s.pc ∧ u.priv = s.priv ∧ u.debugMode = s.debugMode ∧ u.sleeping = s.sleeping
    ∧ u.mem = s.mem

/-- `misa` is an always-present CSR of class MRW at 0x301, without storage: it reads MXL = 01, X = 1, the configured extensions,
I exactly where E is not, and 0 elsewhere; a write changes nothing (R47). -/
def Obligations.MisaReadsConfiguration : Prop :=
  ∀ (s : State) (v : Word),
    Csr.misa.addr = 0x301 ∧ Csr.misa.cls = .mrw ∧ Csr.misa.existsIn s.cfg = s.cfg.extZicsr
    ∧ csrWrite .misa v s = .ok s
    ∧ ∀ k, k < 32 → (csrRead .misa s).getLsbD k =
      match k with
      | 0 => s.cfg.extA
      | 1 => s.cfg.extB
      | 2 => s.cfg.extC
      | 4 => s.cfg.extE
      | 8 => !s.cfg.extE
      | 12 => s.cfg.extM
      | 20 => s.cfg.extU
      | 23 => true
      | 30 => true
      | _ => false

/-- The machine information registers (R131 to R135): their addresses, that their class is read-only, and the values they
read. -/
def Obligations.MachineInformationValues : Prop :=
  ∀ s : State,
    [Csr.mvendorid, .marchid, .mimpid, .mhartid, .mconfigptr].map Csr.addr = [0xf11, 0xf12, 0xf13, 0xf14, 0xf15]
    ∧ [Csr.mvendorid, .marchid, .mimpid, .mhartid, .mconfigptr].map Csr.cls = [.mro, .mro, .mro, .mro, .mro]
    ∧ csrRead .mvendorid s = 0x00000000
    ∧ csrRead .marchid s = 0x00000013
    ∧ csrRead .mimpid s = s.cfg.hwVersion
    ∧ csrRead .mhartid s = s.cfg.hartId
    ∧ csrRead .mconfigptr s = 0x00000000

/-- The NEORV32-specific registers (R136, R138): every bit of `mxcsr` and `mxisa` reads its flag of the configuration, a bit of
no flag 0; a write to `mxcsr` changes nothing. -/
def Obligations.NeorvRegistersReadConfiguration : Prop :=
  ∀ (s : State) (v : Word),
    csrWrite .mxcsr v s = .ok s
    ∧ (∀ k, k < 32 → (csrRead .mxcsr s).getLsbD k =
      match k with
      | 26 => s.cfg.cpuTraceEn
      | 27 => s.cfg.cpuConsttBrEn
      | 28 => s.cfg.cpuRfHwRstEn
      | 29 => s.cfg.cpuFastMulEn
      | 30 => s.cfg.cpuFastShiftEn
      | 31 => s.cfg.isSim
      | _ => false)
    ∧ ∀ k, k < 32 → some ((csrRead .mxisa s).getLsbD k) =
      ([s.cfg.extZicsr, s.cfg.sub.zifencei, s.cfg.sub.zmmul, s.cfg.sub.zxcfu, s.cfg.sub.zkt, s.cfg.extZfinx, s.cfg.sub.zicond,
        s.cfg.extZicntr, s.cfg.extSmpmp, s.cfg.extZihpm, s.cfg.extSdext, s.cfg.extSdtrig, s.cfg.sub.zbkx, s.cfg.sub.zknd,
        s.cfg.sub.zkne, s.cfg.sub.zknh, s.cfg.sub.zbkb, s.cfg.sub.zbkc, s.cfg.sub.zkn, s.cfg.sub.zksh, s.cfg.sub.zksed,
        s.cfg.sub.zks, s.cfg.sub.zba, s.cfg.sub.zbb, s.cfg.sub.zbs, s.cfg.sub.zaamo, s.cfg.sub.zalrsc, s.cfg.sub.zcb,
        s.cfg.extC, s.cfg.sub.zibi, s.cfg.sub.zimop, false] : List Bool)[k]?

/-- Which bit of `mstatus` reads which field (R40), and `mstatus` after a write (R40 to R42; MPP without user mode is decision
D15, log 26). -/
def Obligations.MstatusWriteIsLegalised : Prop :=
  (∀ s : State, ∀ k, k < 32 → (csrRead .mstatus s).getLsbD k =
    match k with
    | 3 => s.mstatus.mie
    | 7 => s.mstatus.mpie
    | 11 => s.mstatus.mpp == .machine
    | 12 => s.mstatus.mpp == .machine
    | 17 => s.mstatus.mprv
    | 21 => s.mstatus.tw
    | _ => false)
  ∧ ∀ (v : Word) (s u : State), csrWrite .mstatus v s = .ok u →
    csrRead .mstatus u =
      if s.cfg.extU then
        (v &&& 0x00220088) ||| (if v.getLsbD 11 || v.getLsbD 12 then 0x00001800 else 0x00000000)
      else (v &&& 0x00000088) ||| 0x00001800

/-- `mtvec` after a write (R51): a legal value is stored as it is; after any other the register holds some legal value (the
model's choice, log 5). -/
def Obligations.MtvecWriteLeavesLegalValue : Prop :=
  ∀ (v : Word) (s u : State), csrWrite .mtvec v s = .ok u →
    (v.extractLsb' 0 2 = 0b00#2 ∨ (v.extractLsb' 0 2 = 0b01#2 ∧ v.extractLsb' 2 5 = 0) → csrRead .mtvec u = v)
    ∧ ((csrRead .mtvec u).extractLsb' 0 2 = 0b00#2
      ∨ ((csrRead .mtvec u).extractLsb' 0 2 = 0b01#2 ∧ (csrRead .mtvec u).extractLsb' 2 5 = 0))

/-- The hardwired bits of `mepc` read 0 after a software write and after every trap entry (R62; the trap entry is decision D38,
log 32). -/
def Obligations.MepcHardwiredBits : Prop :=
  ∀ (interrupt : Bool) (code : BitVec 5) (v mtval mtinst : Word) (s u : State), csrWrite .mepc v s = .ok u →
    csrRead .mepc u = v &&& (if s.cfg.extC then 0xFFFFFFFE else 0xFFFFFFFC)
    ∧ csrRead .mepc (trapEntry interrupt code v mtval mtinst s) = csrRead .mepc u

/-- The machine registers that read what they store (R49, R50, R56, R60, R61, R127), and what those that store a masked value
read after a write (R49, R56, R60, R127; log 20). -/
def Obligations.MaskedCsrWrites : Prop :=
  ∀ (v : Word) (s : State),
    (csrRead .mscratch s = s.mscratch ∧ csrRead .mie s = s.mie ∧ csrRead .mtvec s = s.mtvec ∧ csrRead .mepc s = s.mepc
      ∧ csrRead .mcountinhibit s = s.mcountinhibit
      ∧ csrRead .mcounteren s = (if s.mcounteren.cy then 1 else 0) ||| (if s.mcounteren.ir then 4 else 0))
    ∧ (∀ u, csrWrite .mscratch v s = .ok u → csrRead .mscratch u = v)
    ∧ (∀ u, csrWrite .mie v s = .ok u → csrRead .mie u = v &&& 0xFFFF0888)
    ∧ (∀ u, csrWrite .mcounteren v s = .ok u → csrRead .mcounteren u = v &&& 0x00000005)
    ∧ (∀ u, csrWrite .mcountinhibit v s = .ok u → csrRead .mcountinhibit u =
        v &&& ((if s.cfg.extZicntr then 0x00000005 else 0) ||| (if s.cfg.extZihpm then 0x0000FFF8 else 0)))

/-- `fcsr`, at 0x003, is a view of `fflags` and `frm` and resets to 0: what it reads, what a write to it stores in the two, and
that a write to one of the two is seen in it (R38); each of the two reads its own field (R36, R37). -/
def Obligations.FcsrIsViewOfFlagsAndMode : Prop :=
  ∀ (v : Word) (s : State),
    Csr.fcsr.addr = 0x003 ∧ csrRead .fcsr (State.resetOf s.cfg) = 0
    ∧ csrRead .fflags s = s.fflags.setWidth 32 ∧ csrRead .frm s = s.frm.setWidth 32
    ∧ csrRead .fcsr s = (csrRead .frm s <<< 5) ||| csrRead .fflags s
    ∧ (∀ u, csrWrite .fcsr v s = .ok u →
        csrRead .fflags u = v &&& 0x1F ∧ csrRead .frm u = (v >>> 5) &&& 0x7 ∧ csrRead .fcsr u = v &&& 0xFF)
    ∧ (∀ u, csrWrite .fflags v s = .ok u → csrRead .fcsr u = (csrRead .frm s <<< 5) ||| (v &&& 0x1F))
    ∧ (∀ u, csrWrite .frm v s = .ok u → csrRead .fcsr u = ((v &&& 0x7) <<< 5) ||| csrRead .fflags s)

/-! ## Counters -/

/-- `cycle[h]` (R115): a read gives the word of the one cycle counter, in machine mode always, in user mode if `mcounteren.CY`
is 1 and else it traps; any write access traps in every mode (log 29). -/
def Obligations.CycleIsReadOnlyShadow : Prop :=
  ∀ (i : Instr) (rd : RegNum) (wr : Bool) (s : State),
    Running s → i.wellFormed s.cfg = true → s.cfg.extZicntr = true → Instr.dest i = some rd →
    (Instr.access i = some (0xc00, wr) ∨ Instr.access i = some (0xc80, wr)) →
    exec i s = .next
      (if wr = true ∨ (s.priv = .user ∧ s.mcounteren.cy = false) then raiseIllegal i s
        else if Instr.access i = some (0xc00, wr) then writeX rd (s.cycle.extractLsb' 0 32) (advanced s)
        else writeX rd (s.cycle.extractLsb' 32 32) (advanced s))

/-- `instret[h]` (R116): as `cycle[h]`, for the instruction counter and `mcounteren.IR` (log 29); the count read is the one
before the instruction's own increment (R114, decision D22; log 19). -/
def Obligations.InstretIsReadOnlyShadow : Prop :=
  ∀ (i : Instr) (rd : RegNum) (wr : Bool) (s : State),
    Running s → i.wellFormed s.cfg = true → s.cfg.extZicntr = true → Instr.dest i = some rd →
    (Instr.access i = some (0xc02, wr) ∨ Instr.access i = some (0xc82, wr)) →
    exec i s = .next
      (if wr = true ∨ (s.priv = .user ∧ s.mcounteren.ir = false) then raiseIllegal i s
        else if Instr.access i = some (0xc02, wr) then writeX rd (s.instret.extractLsb' 0 32) (advanced s)
        else writeX rd (s.instret.extractLsb' 32 32) (advanced s))

/-- `mcycle` and `mcycleh` in machine mode (R111): each reads its word of the counter, and `csrrw` replaces that word and leaves
the other one alone, so that right after the instruction the counter holds the written word (R112, decision D22; log 18); in
user mode `csrrw` to either traps (log 29). -/
def Obligations.McycleWords : Prop :=
  ∀ (rd rs1 : RegNum) (s : State),
    Running s → (Instr.csrrw rd 0xb00 rs1).wellFormed s.cfg = true → s.cfg.extZicntr = true →
    (s.priv = .machine →
      exec (.csrrw rd 0xb00 rs1) s = .next (writeX rd (s.cycle.extractLsb' 0 32)
        { advanced s with cycle := s.cycle.extractLsb' 32 32 ++ readX s rs1 })
      ∧ exec (.csrrw rd 0xb80 rs1) s = .next (writeX rd (s.cycle.extractLsb' 32 32)
        { advanced s with cycle := readX s rs1 ++ s.cycle.extractLsb' 0 32 }))
    ∧ (s.priv = .user →
      exec (.csrrw rd 0xb00 rs1) s = .next (raiseIllegal (.csrrw rd 0xb00 rs1) s)
      ∧ exec (.csrrw rd 0xb80 rs1) s = .next (raiseIllegal (.csrrw rd 0xb80 rs1) s))

/-- Between two instructions (R112, R124, D21, D23, D46): the cycle counter moves by the drawn number of cycles modulo 2^64
where it exists, is not inhibited (bit 0, or 2 where the printed table is followed, log 20) and the hart does not sleep on, else
it stands still; the counter of a monitor that is real, not inhibited and has an event selected moves by its drawn number modulo
2^HPM_CNT_WIDTH, every other monitor stands still, as does one that selects event CY alone while the hart sleeps on (R253 a; log
34); neither the instruction counter nor an event selector moves (log 18). -/
def Obligations.InhibitedCountersStandStill : Prop :=
  ∀ s : State,
    let d := nextInput s
    ((tick s).cycle =
      if s.cfg.extZicntr = true ∧ s.mcountinhibit.getLsbD (if s.cfg.mcountinhibitAsPrinted then 2 else 0) = false
          ∧ staysAsleep d s = false then
        s.cycle + BitVec.ofNat 64 d.cycles
      else s.cycle)
    ∧ (tick s).instret = s.instret
    ∧ (∀ n (h : n < 13),
        ((tick s).monitor n).event = (s.monitor n).event
        ∧ ((tick s).monitor n).cnt =
          if n < s.cfg.hpmNumCnts ∧ s.mcountinhibit.getLsbD (n + 3) = false ∧ (s.monitor n).event ≠ 0
              ∧ ¬ (staysAsleep d s = true ∧ (s.monitor n).event = 1) then
            BitVec.ofNat 64 (((s.monitor n).cnt.toNat + d.hpm[n]) % 2 ^ s.cfg.hpmCntWidth)
          else (s.monitor n).cnt)

/-- The HPM counters (R123): a real monitor's two words read its counter; bits at and above HPM_CNT_WIDTH read 0 and ignore
writes, a write of one word replaces that word's existing bits and leaves the other word's alone, for a real monitor; a monitor
that is not real changes nothing and reads 0. -/
def Obligations.HpmCounterWidth : Prop :=
  ∀ (n : Fin 13) (v : Word) (s : State),
    (n.val < s.cfg.hpmNumCnts → ∀ k, k < 64 → (csrRead (.mhpmcounterh n) s ++ csrRead (.mhpmcounter n) s).getLsbD k =
      (decide (k < s.cfg.hpmCntWidth) && (s.monitor n.val).cnt.getLsbD k))
    ∧ (∀ u, csrWrite (.mhpmcounter n) v s = .ok u → n.val < s.cfg.hpmNumCnts →
      ∀ k, k < 64 → (csrRead (.mhpmcounterh n) u ++ csrRead (.mhpmcounter n) u).getLsbD k =
        (decide (k < s.cfg.hpmCntWidth) &&
          if k < 32 then v.getLsbD k else (csrRead (.mhpmcounterh n) s).getLsbD (k - 32)))
    ∧ (∀ u, csrWrite (.mhpmcounterh n) v s = .ok u → n.val < s.cfg.hpmNumCnts →
      ∀ k, k < 64 → (csrRead (.mhpmcounterh n) u ++ csrRead (.mhpmcounter n) u).getLsbD k =
        (decide (k < s.cfg.hpmCntWidth) &&
          if k < 32 then (csrRead (.mhpmcounter n) s).getLsbD k else v.getLsbD (k - 32)))
    ∧ (∀ u, (csrWrite (.mhpmcounter n) v s = .ok u ∨ csrWrite (.mhpmcounterh n) v s = .ok u) → s.cfg.hpmNumCnts ≤ n.val →
        u.hpm = s.hpm ∧ csrRead (.mhpmcounter n) u = 0 ∧ csrRead (.mhpmcounterh n) u = 0)

/-- The event selectors (R121): a real monitor stores the eleven event bits, another reads 0. -/
def Obligations.HpmEventSelectorMask : Prop :=
  (∀ (n : Fin 13) (s : State), csrRead (.mhpmevent n) s =
    if n.val < s.cfg.hpmNumCnts then (s.monitor n.val).event.setWidth 32 else 0)
  ∧ ∀ (n : Fin 13) (v : Word) (s u : State), csrWrite (.mhpmevent n) v s = .ok u →
    csrRead (.mhpmevent n) u = if n.val < s.cfg.hpmNumCnts then v &&& 0x00000FFD else 0

/-! ## Physical memory protection -/

/-- What `pmpcfg<k>` reads (R101, R102): byte `j` is that of region 4k + j, L at bit 7, A at 4:3, X, W and R at 2, 1 and 0, and
0 for a region that is not implemented. A write of `pmpcfg<k>` (R103): the four bytes are written each on its own, a locked or
unimplemented region unchanged and the address fields untouched; the byte of an unimplemented region reads 0. The stored mode
(R104): OFF as written; an implemented mode as written; one that synthesis left out as `Cfg.pmpLegalA` says, OFF by default
(decision D18, log 16); NA4 at a granularity other than the 4 bytes the spec describes as some mode of the configuration (log
15). -/
def Obligations.PmpcfgWriteByRegion : Prop :=
  (∀ (k : Fin 4) (s : State) (j : Nat), j < 4 →
    let p := s.region (4 * k.val + j)
    (csrRead (.pmpcfg k) s).extractLsb' (8 * j) 8 =
      if 4 * k.val + j < s.cfg.pmpNumRegions then
        BitVec.ofBool p.l ++ 0b00#2 ++ p.a ++ BitVec.ofBool p.x ++ BitVec.ofBool p.w ++ BitVec.ofBool p.r
      else 0)
  ∧ ∀ (k : Fin 4) (v : Word) (s u : State), csrWrite (.pmpcfg k) v s = .ok u →
    (∀ i, i < 16 →
      if i / 4 = k.val ∧ i < s.cfg.pmpNumRegions ∧ (s.region i).l = false then
        let p := u.region i
        let m := v.extractLsb' (8 * (i % 4) + 3) 2
        p.r = v.getLsbD (8 * (i % 4))
          ∧ p.w = v.getLsbD (8 * (i % 4) + 1)
          ∧ p.x = v.getLsbD (8 * (i % 4) + 2)
          ∧ p.l = v.getLsbD (8 * (i % 4) + 7)
          ∧ p.addr = (s.region i).addr
          ∧ (m = 0b00#2 → p.a = 0b00#2)
          ∧ (m = 0b01#2 → p.a = if s.cfg.pmpTorModeEn then 0b01#2 else s.cfg.pmpLegalA.tor)
          ∧ (m = 0b10#2 → s.cfg.pmpNapModeEn = false → p.a = s.cfg.pmpLegalA.na4)
          ∧ (m = 0b10#2 → s.cfg.pmpNapModeEn = true →
              if s.cfg.pmpMinGranularity = 4 then p.a = 0b10#2 else s.cfg.implementsMode p.a = true)
          ∧ (m = 0b11#2 → p.a = if s.cfg.pmpNapModeEn then 0b11#2 else s.cfg.pmpLegalA.napot)
      else u.region i = s.region i)
    ∧ ∀ j, j < 4 → s.cfg.pmpNumRegions ≤ 4 * k.val + j → (csrRead (.pmpcfg k) u).extractLsb' (8 * j) 8 = 0

/-- At the granularity of 4 bytes (log 15) `pmpaddr<j>` of an implemented region reads its address field below two zero bits
(R107). A write of `pmpaddr<j>` (R107, R108): bits 29:0 are stored where the region is implemented and not locked and the region
above is not locked in TOR mode (decision D17, log 17); nothing else of any region changes (log 15). -/
def Obligations.PmpaddrWriteByRegion : Prop :=
  (∀ (j : Fin 16) (s : State), s.cfg.pmpMinGranularity = 4 → j.val < s.cfg.pmpNumRegions →
    csrRead (.pmpaddr j) s = 0b00#2 ++ (s.region j.val).addr)
  ∧ ∀ (j : Fin 16) (v : Word) (s u : State), s.cfg.pmpMinGranularity = 4 → csrWrite (.pmpaddr j) v s = .ok u →
    ∀ i, u.region i =
      if i = j.val ∧ i < s.cfg.pmpNumRegions ∧ (s.region i).l = false ∧ ¬ s.lockedTor (i + 1) then
        { s.region i with addr := v.extractLsb' 0 30 }
      else s.region i

/-- PMP locking is one-way until reset (R105, R334): no step but a reset changes a locked region, nor the address register below
a region locked in TOR mode (log 17); a reset clears every region (R321). -/
def Obligations.LockedRegionsNeverChange : Prop :=
  ∀ (s t : State) (i : Nat), step s = .next t →
    ((nextInput s).reset = none →
      (s.locked i → t.region i = s.region i ∧ t.locked i)
      ∧ (s.lockedTor (i + 1) → (t.region i).addr = (s.region i).addr))
    ∧ (∀ r, (nextInput s).reset = some r → t.region i = {})

/-- The PMP check (R171 to R173, R105 c; log 14). At the granularity the spec describes, 4 bytes (log 15): a region matches
exactly the bytes of its range (`RegionCovers`), and an access passes if and only if either no region takes in any of its bytes,
and it is checked at machine mode or there is no region; or the lowest-numbered region that takes in some byte takes in all of
them, and it is checked at machine mode with that region unlocked, or that region permits its kind. At every granularity,
because the model matches whole words: with every region OFF a user-mode fetch fails where any region is implemented, and an
aligned machine-mode fetch passes where no region is locked. -/
def Obligations.PmpFetchCheckByMode : Prop :=
  ∀ (a : Word) (s : State),
    (s.cfg.pmpMinGranularity = 4 → ∀ i, regionMatches s i a = true ↔ RegionCovers s i a)
    ∧ (s.cfg.pmpMinGranularity = 4 → ∀ (k : AccessKind) (n : Nat),
      pmpAllows k a n s = true ↔
        ((∀ i, i < s.cfg.pmpNumRegions → ¬ CoversSome s i a n)
            ∧ (effectivePriv k s = .machine ∨ s.cfg.pmpNumRegions = 0))
        ∨ ∃ i, i < s.cfg.pmpNumRegions ∧ CoversSome s i a n ∧ (∀ j, j < i → ¬ CoversSome s j a n) ∧ CoversAll s i a n
            ∧ ((effectivePriv k s = .machine ∧ (s.region i).l = false)
              ∨ (match k with
                | .fetch => (s.region i).x
                | .load => (s.region i).r
                | .store => (s.region i).w) = true))
    ∧ (s.priv = .user → 0 < s.cfg.pmpNumRegions → (∀ i, i < s.cfg.pmpNumRegions → (s.region i).a = 0) →
      pmpAllows .fetch a 4 s = false)
    ∧ (s.priv = .machine → a.extractLsb' 0 2 = 0b00#2 → (∀ i, i < s.cfg.pmpNumRegions → (s.region i).l = false) →
      pmpAllows .fetch a 4 s = true)

/-- The privilege an access is checked at (R45): MPP for loads and stores while MPRV is set, else the current mode; a fetch
always the current mode. -/
def Obligations.EffectivePrivilegeOfAccesses : Prop :=
  ∀ s : State,
    effectivePriv .fetch s = s.priv
    ∧ effectivePriv .load s = (if s.mstatus.mprv then s.mstatus.mpp else s.priv)
    ∧ effectivePriv .store s = (if s.mstatus.mprv then s.mstatus.mpp else s.priv)

/-! ## Whole-machine rules -/

/-- Every step of a legal state leaves a legal state: hardwired bits read their constants, the pc and `mepc` stay aligned, modes
stay modes the hart has, `mtvec` stays legal, memory stays canonical (R13, R21, R22, R49, R51, R62, R123, R127; log 5; log 15;
log 16; log 20; log 26). -/
def Obligations.StepKeepsLegal : Prop :=
  ∀ s t : State, Legal s → step s = .next t → Legal t

/-- The state after reset is legal, for every well-formed configuration and for the reference one (log 1; log 3). -/
def Obligations.ResetIsLegal : Prop :=
  (∀ c : Cfg, c.wellFormed = true → Legal (State.resetOf c)) ∧ Legal State.reset

/-- The configuration is fixed for the life of the machine, and no step enters or leaves debug mode (00_scope.md R5, 10_state.md
R23; log 1; log 7). -/
def Obligations.ConfigurationIsFixed : Prop :=
  ∀ s t : State, step s = .next t → t.cfg = s.cfg ∧ t.debugMode = s.debugMode

/-- The only way into user mode is `mret` with MPP = user mode; the only ways out of it are a trap, which records its cause, the
pc, the interrupt enable and the mode it came from, and a reset, after which the hart is in machine mode at the boot address
(R290, R282, R322; log 2; log 13; log 26). -/
def Obligations.ModeChangesOnlyByMretAndTrap : Prop :=
  ∀ s t : State, step s = .next t →
    (s.priv = .machine → t.priv = .user → fetch (tick s) = .word 0x30200073 ∧ s.mstatus.mpp = .user ∧ t.pc = s.mepc)
    ∧ (s.priv = .user → t.priv = .machine → (nextInput s).reset = none →
        t.pc = trapTarget s t.mcause.interrupt t.mcause.code
        ∧ t.mepc = alignPc s.cfg s.pc ∧ t.mstatus.mie = false ∧ t.mstatus.mpie = s.mstatus.mie
        ∧ t.mstatus.mpp = (if s.cfg.extU then .user else .machine))
    ∧ (∀ r, (nextInput s).reset = some r → t.priv = .machine ∧ t.pc = s.cfg.bootAddr)

/-- A step from user mode that stays in user mode (R291; log 29) changes none of `mstatus`, `mie`, `mtvec`, `mcounteren`,
`mscratch`, `mepc`, `mcause`, `mtval`, `mtinst`, the PMP registers, the event selectors and `mcountinhibit`; the cycle counter
and the monitors hold what the passing of time left in them, the instruction counter counts at most this instruction (log 18,
log 19), and the trigger registers hold the step's free values (log 6). -/
def Obligations.UserModeCannotChangeMachineRegisters : Prop :=
  ∀ s t : State, step s = .next t → s.priv = .user → t.priv = .user →
    SameMachineRegisters s t
      ∧ t.cycle = (tick s).cycle ∧ t.hpm = (tick s).hpm ∧ (t.instret = s.instret ∨ t.instret = instretNext s)
      ∧ t.trigger = (nextInput s).trigger

/-- What a user-mode instruction that does not trap does depends on nothing but what user mode may see: two states with the same
user view, whatever their machine registers hold but for the three things that the view fixes (`mcounteren`, `mstatus.TW` and
the IR inhibit bit), go on to states with the same user view (R28, R291; log 29). -/
def Obligations.UserModeSeesNoMachineRegister : Prop :=
  ∀ (i : Instr) (s s' t : State),
    SameUserView s s' → exec i s = .next t → t.priv = .user →
    ∃ t', exec i s' = .next t' ∧ SameUserView t t'

/-- The reset values of the CSRs that have storage, `mstatus` with and without user mode (R42; decision D15, log 26), and the
reset of the mode and the pc (R321, R322; log 2); and a step of a running hart whose input says reset completes and leaves the
configuration and, in every CSR but the trigger and debug registers, in the mode and in the pc, what they hold after reset
(R320; log 33). -/
def Obligations.ResetCsrValues : Prop :=
  (∀ c : Cfg,
    let s := State.resetOf c
    (∀ d ∈ [Csr.fflags, .frm, .fcsr, .mie, .mtvec, .mcounteren, .menvcfg, .mstatush, .menvcfgh, .mcountinhibit,
        .mscratch, .mepc, .mcause, .mtval, .mip, .mtinst, .mcycle, .mcycleh, .minstret, .minstreth, .cycle, .cycleh, .instret,
        .instreth], csrRead d s = 0x00000000)
    ∧ csrRead .mstatus s = (if c.extU then 0x00000000 else 0x00001800)
    ∧ (∀ n, csrRead (.mhpmevent n) s = 0 ∧ csrRead (.mhpmcounter n) s = 0 ∧ csrRead (.mhpmcounterh n) s = 0)
    ∧ (∀ k, csrRead (.pmpcfg k) s = 0)
    ∧ (c.pmpMinGranularity = 4 → ∀ i, csrRead (.pmpaddr i) s = 0)
    ∧ s.priv = .machine ∧ s.pc = c.bootAddr ∧ s.debugMode = false ∧ readX s 0 = 0)
  ∧ ∀ (s : State) (r : ResetValues), Running s → (nextInput s).reset = some r →
    ∃ t, step s = .next t ∧ t.cfg = s.cfg
      ∧ (∀ d, isTriggerCsr d = false → isDebugCsr d = false → csrRead d t = csrRead d (State.resetOf s.cfg))
      ∧ t.priv = .machine ∧ t.pc = s.cfg.bootAddr ∧ t.debugMode = false ∧ t.sleeping = false ∧ readX t 0 = 0
end

