-- ==== Sys2Proof/Laws/Bits.lean ====
section
/-! SUPPORT. The bits of the words that the CSR views and the counters are built from. -/

namespace Sys2Proof.Machine

/-- Every bit of a placed flag. -/
@[simp] theorem getLsbD_bitAt (n : Nat) (b : Bool) (k : Nat) :
    (bitAt n b).getLsbD k = (decide (k < 32) && decide (k = n) && b) := by
  unfold bitAt
  cases b
  · simp
  · by_cases h : k < 32
    · simp only [if_true, BitVec.getLsbD_shiftLeft, h, decide_true, Bool.true_and, Bool.and_true]
      by_cases e : k = n
      · subst e; simp
      · by_cases l : k < n
        · simp [l, e]
        · simp [l, e]; omega
    · simp [h]

/-- Every bit of a word given by its flags. -/
theorem getLsbD_wordOfBits (l : List (Nat × Bool)) (k : Nat) :
    (wordOfBits l).getLsbD k = l.any fun p => decide (k < 32) && decide (k = p.1) && p.2 := by
  induction l with
  | nil => simp [wordOfBits]
  | cons p rest ih => simp [wordOfBits, ih]

/-- A bit of a placed flag, by its number in range. -/
@[simp] theorem getElem_bitAt (n : Nat) (b : Bool) (k : Nat) (h : k < 32) : (bitAt n b)[k] = (decide (k = n) && b) := by
  rw [← BitVec.getLsbD_eq_getElem, getLsbD_bitAt]
  simp [h]

/-- A bit of a word given by its flags, by its number in range. -/
theorem getElem_wordOfBits (l : List (Nat × Bool)) (k : Nat) (h : k < 32) :
    (wordOfBits l)[k] = l.any fun p => decide (k = p.1) && p.2 := by
  rw [← BitVec.getLsbD_eq_getElem, getLsbD_wordOfBits]
  simp [h]

/-- Every bit of the mask of the `width` lowest bits. -/
theorem getLsbD_widthMask (width k : Nat) : (widthMask width).getLsbD k = (decide (k < 64) && decide (k < width)) := by
  unfold widthMask
  rw [BitVec.getLsbD_ofNat, Nat.testBit_two_pow_sub_one]

/-- A bit of the mask of the `width` lowest bits, by its number in range. -/
theorem getElem_widthMask (width k : Nat) (h : k < 64) : (widthMask width)[k] = decide (k < width) := by
  rw [← BitVec.getLsbD_eq_getElem, getLsbD_widthMask]
  simp [h]

/-- A counter with its low word replaced, bit by bit. -/
theorem getLsbD_withLowWord (v : DWord) (w : Word) (k : Nat) :
    (withLowWord v w).getLsbD k = if k < 32 then w.getLsbD k else v.getLsbD k := by
  unfold withLowWord highWord
  change BitVec.getLsbD (w := 32 + 32) (_ ++ w) k = _
  rw [BitVec.getLsbD_append]
  by_cases h : k < 32
  · simp [h]
  · by_cases h2 : k < 64
    · simp [h, show k - 32 < 32 by omega, show 32 + (k - 32) = k by omega]
    · simp [h, show ¬ k - 32 < 32 by omega, BitVec.getLsbD_of_ge v k (by omega)]

/-- A counter with its high word replaced, bit by bit. -/
theorem getLsbD_withHighWord (v : DWord) (w : Word) (k : Nat) :
    (withHighWord v w).getLsbD k = if k < 32 then v.getLsbD k else w.getLsbD (k - 32) := by
  unfold withHighWord lowWord
  change BitVec.getLsbD (w := 32 + 32) (w ++ _) k = _
  rw [BitVec.getLsbD_append]
  by_cases h : k < 32
  · simp [h]
  · simp [h]

/-- The two words of a counter make the counter (00_scope.md R10). -/
@[simp] theorem highWord_append_lowWord (v : DWord) : highWord v ++ lowWord v = v := by
  apply BitVec.eq_of_getLsbD_eq
  intro k hk
  unfold highWord lowWord
  rw [BitVec.getLsbD_append]
  by_cases h : k < 32
  · simp [h]
  · simp [h, show k - 32 < 32 by omega, show 32 + (k - 32) = k by omega]

end Sys2Proof.Machine
end

