-- ==== Sys2Proof/Laws/CsrMap.lean ====
section
/-! SUPPORT. The CSR map: every CSR has one address and every listed address one CSR. -/

namespace Sys2Proof.Machine

/-- The table lists every CSR. -/
theorem csr_mem_all (c : Csr) : c ∈ Csr.all := by
  cases c with
  | mhpmevent n => revert n; decide
  | mhpmcounter n => revert n; decide
  | mhpmcounterh n => revert n; decide
  | pmpcfg k => revert k; decide
  | pmpaddr i => revert i; decide
  | _ => decide

/-- The lookup answers only a CSR at that address. -/
theorem csrOfAddr_addr_eq {a : CsrAddr} {c : Csr} (h : csrOfAddr a = some c) : c.addr = a := by
  simpa using List.find?_some h

/-- Every CSR is found at its address. -/
@[simp] theorem csrOfAddr_addr (c : Csr) : csrOfAddr c.addr = some c := by
  cases c with
  | mhpmevent n => revert n; decide
  | mhpmcounter n => revert n; decide
  | mhpmcounterh n => revert n; decide
  | pmpcfg k => revert k; decide
  | pmpaddr i => revert i; decide
  | _ => decide

/-- An address names at most one CSR. -/
theorem csr_addr_injective {c d : Csr} (h : c.addr = d.addr) : c = d := by
  have := csrOfAddr_addr c
  rw [h, csrOfAddr_addr d] at this
  exact (Option.some.inj this).symm

/-- An address outside the table names no CSR (10_state.md R25). -/
theorem csrOfAddr_none {a : CsrAddr} (h : a ∉ Csr.all.map Csr.addr) : csrOfAddr a = none := by
  cases hc : csrOfAddr a with
  | none => rfl
  | some c => exact absurd (List.mem_map.mpr ⟨c, csr_mem_all c, csrOfAddr_addr_eq hc⟩) h

end Sys2Proof.Machine
end

