-- ==== Sys2Proof/Laws/Decode.lean ====
section
/-! SUPPORT. The bits and fields of an encoded word (30_encoding.md R191). -/

namespace Sys2Proof

open Machine

/-- Every bit of an I-type SYSTEM word, field by field. -/
theorem getLsbD_systemWord (csr : CsrAddr) (rs1 : RegNum) (f : BitVec 3) (rd : RegNum) (k : Nat) :
    (systemWord csr rs1 f rd).getLsbD k =
      if k < 7 then opSystem.getLsbD k
      else if k < 12 then rd.getLsbD (k - 7)
      else if k < 15 then f.getLsbD (k - 12)
      else if k < 20 then rs1.getLsbD (k - 15)
      else csr.getLsbD (k - 20) := by
  unfold systemWord
  change BitVec.getLsbD (w := 12 + 5 + 3 + 5 + 7) (csr ++ rs1 ++ f ++ rd ++ opSystem) k = _
  simp only [BitVec.getLsbD_append]
  have e : ∀ a b : Nat, k - a - b = k - (a + b) := fun a b => by omega
  simp only [e]
  by_cases h1 : k < 7
  · simp [h1]
  by_cases h2 : k < 12
  · simp [h1, h2, show k - 7 < 5 by omega]
  by_cases h3 : k < 15
  · simp [h1, h2, h3, show ¬(k - 7 < 5) by omega, show k - 12 < 3 by omega]
  by_cases h4 : k < 20
  · simp [h1, h2, h3, h4, show ¬(k - 7 < 5) by omega, show ¬(k - 12 < 3) by omega, show k - 15 < 5 by omega]
  · simp [h1, h2, h3, h4, show ¬(k - 7 < 5) by omega, show ¬(k - 12 < 3) by omega, show ¬(k - 15 < 5) by omega]

@[simp] theorem fieldRd_systemWord (csr : CsrAddr) (rs1 : RegNum) (f : BitVec 3) (rd : RegNum) :
    fieldRd (systemWord csr rs1 f rd) = rd := by
  apply BitVec.eq_of_getLsbD_eq
  intro k hk
  simp [fieldRd, getLsbD_systemWord, hk, show 7 + k < 12 by omega]

@[simp] theorem fieldFunct3_systemWord (csr : CsrAddr) (rs1 : RegNum) (f : BitVec 3) (rd : RegNum) :
    fieldFunct3 (systemWord csr rs1 f rd) = f := by
  apply BitVec.eq_of_getLsbD_eq
  intro k hk
  simp [fieldFunct3, getLsbD_systemWord, hk, show 12 + k < 15 by omega, show ¬(12 + k < 7) by omega] <;> omega

@[simp] theorem fieldRs1_systemWord (csr : CsrAddr) (rs1 : RegNum) (f : BitVec 3) (rd : RegNum) :
    fieldRs1 (systemWord csr rs1 f rd) = rs1 := by
  apply BitVec.eq_of_getLsbD_eq
  intro k hk
  simp [fieldRs1, getLsbD_systemWord, hk, show 15 + k < 20 by omega, show ¬(15 + k < 7) by omega,
    show ¬(15 + k < 12) by omega] <;> omega

@[simp] theorem fieldCsr_systemWord (csr : CsrAddr) (rs1 : RegNum) (f : BitVec 3) (rd : RegNum) :
    fieldCsr (systemWord csr rs1 f rd) = csr := by
  apply BitVec.eq_of_getLsbD_eq
  intro k hk
  simp [fieldCsr, getLsbD_systemWord, hk, show ¬(20 + k < 7) by omega, show ¬(20 + k < 12) by omega,
    show ¬(20 + k < 15) by omega] <;> omega

@[simp] theorem lowBits_systemWord (csr : CsrAddr) (rs1 : RegNum) (f : BitVec 3) (rd : RegNum) :
    (systemWord csr rs1 f rd).extractLsb' 0 2 = 0b11#2 := by
  apply BitVec.eq_of_getLsbD_eq
  intro k hk
  have : k = 0 ∨ k = 1 := by omega
  obtain rfl | rfl := this <;> simp [getLsbD_systemWord, opSystem]

@[simp] theorem opcode_systemWord (csr : CsrAddr) (rs1 : RegNum) (f : BitVec 3) (rd : RegNum) :
    (systemWord csr rs1 f rd).extractLsb' 0 7 = opSystem := by
  apply BitVec.eq_of_getLsbD_eq
  intro k hk
  simp [getLsbD_systemWord, hk]

/-- Every in-scope instruction is 32 bits long: its low two bits are 11 (R190). -/
@[simp] theorem lowBits_encode (i : Instr) : (encode i).extractLsb' 0 2 = 0b11#2 := by
  cases i <;> first | exact lowBits_systemWord .. | rfl

end Sys2Proof
end

