-- ==== Sys2Proof/Laws/Memory.lean ====
section
/-! SUPPORT. The laws of memory: what a byte reads after a write, and the canonical form under every operation. -/

namespace Sys2Proof.Machine

/-- A read after a write to the same address gives the byte written. -/
@[simp] theorem Memory.read_write_same (m : List Host.Cell) (a : Nat) (b : Byte) :
    Memory.read (Memory.write m a b) a = some b := by
  induction m with
  | nil => simp [Memory.write, Memory.read]
  | cons c rest ih =>
    obtain ⟨a', b'⟩ := c
    unfold Memory.write
    split
    · simp [Memory.read]
    · split
      · simp [Memory.read]
      · simp [Memory.read, *]

/-- A write leaves every other address alone. -/
theorem Memory.read_write_other (m : List Host.Cell) {a k : Nat} (b : Byte) (h : k ≠ a) :
    Memory.read (Memory.write m a b) k = Memory.read m k := by
  induction m with
  | nil => simp [Memory.write, Memory.read, h]
  | cons c rest ih =>
    obtain ⟨a', b'⟩ := c
    unfold Memory.write
    split
    · simp [Memory.read, h]
    · split
      · next heq => subst heq; simp [Memory.read, h]
      · simp [Memory.read, ih]

/-- A write above a bound keeps the addresses rising above it. -/
theorem Memory.risingAbove_write {lo a : Nat} (m : List Host.Cell) (b : Byte) (ha : lo < a)
    (h : Memory.risingAbove lo m = true) : Memory.risingAbove lo (Memory.write m a b) = true := by
  induction m generalizing lo with
  | nil => simp [Memory.write, Memory.risingAbove, ha]
  | cons c rest ih =>
    obtain ⟨a', b'⟩ := c
    simp only [Memory.risingAbove, Bool.and_eq_true, decide_eq_true_eq] at h
    unfold Memory.write
    split
    · simp [Memory.risingAbove, ha, h.2]; assumption
    · split
      · next heq => subst heq; simp [Memory.risingAbove, ha, h.2]
      · simp only [Memory.risingAbove, Bool.and_eq_true, decide_eq_true_eq]
        exact ⟨h.1, ih (by omega) h.2⟩

/-- A write keeps the addresses rising. -/
theorem Memory.rising_write (m : List Host.Cell) (a : Nat) (b : Byte) (h : Memory.rising m = true) :
    Memory.rising (Memory.write m a b) = true := by
  cases m with
  | nil => rfl
  | cons c rest =>
    obtain ⟨a', b'⟩ := c
    simp only [Memory.rising] at h
    unfold Memory.write
    split
    · simp [Memory.rising, Memory.risingAbove, h]; assumption
    · split
      · next heq => subst heq; simpa [Memory.rising] using h
      · exact Memory.risingAbove_write rest b (by omega) h

/-- The addresses after a write are the old ones and the one written. -/
theorem Memory.all_write (m : List Host.Cell) (a : Nat) (b : Byte) (ha : a < 2 ^ 32)
    (h : (m.all fun c => decide (c.1 < 2 ^ 32)) = true) :
    ((Memory.write m a b).all fun c => decide (c.1 < 2 ^ 32)) = true := by
  induction m with
  | nil => simpa [Memory.write] using ha
  | cons c rest ih =>
    obtain ⟨a', b'⟩ := c
    simp only [List.all_cons, Bool.and_eq_true, decide_eq_true_eq] at h
    unfold Memory.write
    split
    · simp only [List.all_cons, Bool.and_eq_true, decide_eq_true_eq]; exact ⟨ha, h.1, h.2⟩
    · split
      · simp only [List.all_cons, Bool.and_eq_true, decide_eq_true_eq]; exact ⟨ha, h.2⟩
      · simp only [List.all_cons, Bool.and_eq_true, decide_eq_true_eq]; exact ⟨h.1, ih h.2⟩

/-- A write of one byte keeps the canonical form. -/
theorem Memory.wf_write (m : List Host.Cell) (a : Nat) (b : Byte) (ha : a < 2 ^ 32) (h : Memory.wf m = true) :
    Memory.wf (Memory.write m a b) = true := by
  simp only [Memory.wf, Bool.and_eq_true] at h ⊢
  exact ⟨Memory.rising_write m a b h.1, Memory.all_write m a b ha h.2⟩

/-- A write of consecutive bytes keeps the canonical form. -/
theorem Memory.wf_writeBytes (bs : List Byte) (a : Word) (m : List Host.Cell) (h : Memory.wf m = true) :
    Memory.wf (Memory.writeBytes m a bs) = true := by
  induction bs generalizing a m with
  | nil => exact h
  | cons b rest ih => exact ih _ _ (Memory.wf_write m a.toNat b a.isLt h)

/-- Writes of bytes at their own addresses keep the canonical form. -/
theorem Memory.wf_writeCells (cs : List (Word × Byte)) (m : List Host.Cell) (h : Memory.wf m = true) :
    Memory.wf (Memory.writeCells m cs) = true := by
  induction cs generalizing m with
  | nil => exact h
  | cons c rest ih => exact ih _ (Memory.wf_write m c.1.toNat c.2 c.1.isLt h)

/-- The stores of an out-of-scope instruction keep the canonical form. -/
theorem wf_storeAll (as : List MemAccess) (m : List Host.Cell) (h : Memory.wf m = true) : Memory.wf (storeAll m as) = true := by
  induction as generalizing m with
  | nil => exact h
  | cons a rest ih =>
    cases a with
    | load _ _ => exact ih m h
    | store a bs => exact ih _ (Memory.wf_writeBytes bs a m h)

/-- The memory of the state after reset is in canonical form. -/
theorem State.reset_memory_wf : Memory.wf State.reset.mem = true := rfl

end Sys2Proof.Machine
end

