-- ==== Sys2Proof/Laws/State.lean ====
section
/-! SUPPORT. One lemma for each field of the state under each named update. -/

namespace Sys2Proof.Machine

/-! `countInstr` changes the instruction counter only. -/

@[simp] theorem countInstr_cfg (s : State) : (countInstr s).cfg = s.cfg := rfl
@[simp] theorem countInstr_x (s : State) : (countInstr s).x = s.x := rfl
@[simp] theorem countInstr_pc (s : State) : (countInstr s).pc = s.pc := rfl
@[simp] theorem countInstr_priv (s : State) : (countInstr s).priv = s.priv := rfl
@[simp] theorem countInstr_debugMode (s : State) : (countInstr s).debugMode = s.debugMode := rfl
@[simp] theorem countInstr_sleeping (s : State) : (countInstr s).sleeping = s.sleeping := rfl
@[simp] theorem countInstr_fflags (s : State) : (countInstr s).fflags = s.fflags := rfl
@[simp] theorem countInstr_frm (s : State) : (countInstr s).frm = s.frm := rfl
@[simp] theorem countInstr_mstatus (s : State) : (countInstr s).mstatus = s.mstatus := rfl
@[simp] theorem countInstr_mie (s : State) : (countInstr s).mie = s.mie := rfl
@[simp] theorem countInstr_mtvec (s : State) : (countInstr s).mtvec = s.mtvec := rfl
@[simp] theorem countInstr_mcounteren (s : State) : (countInstr s).mcounteren = s.mcounteren := rfl
@[simp] theorem countInstr_mscratch (s : State) : (countInstr s).mscratch = s.mscratch := rfl
@[simp] theorem countInstr_mepc (s : State) : (countInstr s).mepc = s.mepc := rfl
@[simp] theorem countInstr_mcause (s : State) : (countInstr s).mcause = s.mcause := rfl
@[simp] theorem countInstr_mtval (s : State) : (countInstr s).mtval = s.mtval := rfl
@[simp] theorem countInstr_mtinst (s : State) : (countInstr s).mtinst = s.mtinst := rfl
@[simp] theorem countInstr_mip (s : State) : (countInstr s).mip = s.mip := rfl
@[simp] theorem countInstr_pmp (s : State) : (countInstr s).pmp = s.pmp := rfl
@[simp] theorem countInstr_cycle (s : State) : (countInstr s).cycle = s.cycle := rfl
@[simp] theorem countInstr_instret (s : State) : (countInstr s).instret = instretNext s := rfl
@[simp] theorem countInstr_hpm (s : State) : (countInstr s).hpm = s.hpm := rfl
@[simp] theorem countInstr_mcountinhibit (s : State) : (countInstr s).mcountinhibit = s.mcountinhibit := rfl
@[simp] theorem countInstr_trigger (s : State) : (countInstr s).trigger = s.trigger := rfl
@[simp] theorem countInstr_debugRegs (s : State) : (countInstr s).debugRegs = s.debugRegs := rfl
@[simp] theorem countInstr_mem (s : State) : (countInstr s).mem = s.mem := rfl
@[simp] theorem countInstr_inputs (s : State) : (countInstr s).inputs = s.inputs := rfl
@[simp] theorem countInstr_stepNo (s : State) : (countInstr s).stepNo = s.stepNo := rfl
@[simp] theorem countInstr_draw (s : State) : (countInstr s).draw = s.draw := rfl

/-! `trapEntry` changes `mepc`, `mcause`, `mstatus`, the mode, the pc, `mtval` and `mtinst` only (60_exceptions.md R281 to R285). -/

@[simp] theorem trapEntry_cfg (b : Bool) (c : BitVec 5) (e v w : Word) (s : State) : (trapEntry b c e v w s).cfg = s.cfg := rfl
@[simp] theorem trapEntry_x (b : Bool) (c : BitVec 5) (e v w : Word) (s : State) : (trapEntry b c e v w s).x = s.x := rfl
@[simp] theorem trapEntry_pc (b : Bool) (c : BitVec 5) (e v w : Word) (s : State) : (trapEntry b c e v w s).pc = trapTarget s b c := rfl
@[simp] theorem trapEntry_priv (b : Bool) (c : BitVec 5) (e v w : Word) (s : State) : (trapEntry b c e v w s).priv = .machine := rfl
@[simp] theorem trapEntry_debugMode (b : Bool) (c : BitVec 5) (e v w : Word) (s : State) : (trapEntry b c e v w s).debugMode = s.debugMode := rfl
@[simp] theorem trapEntry_sleeping (b : Bool) (c : BitVec 5) (e v w : Word) (s : State) : (trapEntry b c e v w s).sleeping = s.sleeping := rfl
@[simp] theorem trapEntry_fflags (b : Bool) (c : BitVec 5) (e v w : Word) (s : State) : (trapEntry b c e v w s).fflags = s.fflags := rfl
@[simp] theorem trapEntry_frm (b : Bool) (c : BitVec 5) (e v w : Word) (s : State) : (trapEntry b c e v w s).frm = s.frm := rfl
@[simp] theorem trapEntry_mstatus (b : Bool) (c : BitVec 5) (e v w : Word) (s : State) : (trapEntry b c e v w s).mstatus = ⟨false, s.mstatus.mie, legalMpp s.cfg (privBits s.priv), s.mstatus.mprv, s.mstatus.tw⟩ := rfl
@[simp] theorem trapEntry_mie (b : Bool) (c : BitVec 5) (e v w : Word) (s : State) : (trapEntry b c e v w s).mie = s.mie := rfl
@[simp] theorem trapEntry_mtvec (b : Bool) (c : BitVec 5) (e v w : Word) (s : State) : (trapEntry b c e v w s).mtvec = s.mtvec := rfl
@[simp] theorem trapEntry_mcounteren (b : Bool) (c : BitVec 5) (e v w : Word) (s : State) : (trapEntry b c e v w s).mcounteren = s.mcounteren := rfl
@[simp] theorem trapEntry_mscratch (b : Bool) (c : BitVec 5) (e v w : Word) (s : State) : (trapEntry b c e v w s).mscratch = s.mscratch := rfl
@[simp] theorem trapEntry_mepc (b : Bool) (c : BitVec 5) (e v w : Word) (s : State) : (trapEntry b c e v w s).mepc = alignPc s.cfg e := rfl
@[simp] theorem trapEntry_mcause (b : Bool) (c : BitVec 5) (e v w : Word) (s : State) : (trapEntry b c e v w s).mcause = ⟨b, c⟩ := rfl
@[simp] theorem trapEntry_mtval (b : Bool) (c : BitVec 5) (e v w : Word) (s : State) : (trapEntry b c e v w s).mtval = v := rfl
@[simp] theorem trapEntry_mtinst (b : Bool) (c : BitVec 5) (e v w : Word) (s : State) : (trapEntry b c e v w s).mtinst = w := rfl
@[simp] theorem trapEntry_mip (b : Bool) (c : BitVec 5) (e v w : Word) (s : State) : (trapEntry b c e v w s).mip = s.mip := rfl
@[simp] theorem trapEntry_pmp (b : Bool) (c : BitVec 5) (e v w : Word) (s : State) : (trapEntry b c e v w s).pmp = s.pmp := rfl
@[simp] theorem trapEntry_cycle (b : Bool) (c : BitVec 5) (e v w : Word) (s : State) : (trapEntry b c e v w s).cycle = s.cycle := rfl
@[simp] theorem trapEntry_instret (b : Bool) (c : BitVec 5) (e v w : Word) (s : State) : (trapEntry b c e v w s).instret = s.instret := rfl
@[simp] theorem trapEntry_hpm (b : Bool) (c : BitVec 5) (e v w : Word) (s : State) : (trapEntry b c e v w s).hpm = s.hpm := rfl
@[simp] theorem trapEntry_mcountinhibit (b : Bool) (c : BitVec 5) (e v w : Word) (s : State) : (trapEntry b c e v w s).mcountinhibit = s.mcountinhibit := rfl
@[simp] theorem trapEntry_trigger (b : Bool) (c : BitVec 5) (e v w : Word) (s : State) : (trapEntry b c e v w s).trigger = s.trigger := rfl
@[simp] theorem trapEntry_debugRegs (b : Bool) (c : BitVec 5) (e v w : Word) (s : State) : (trapEntry b c e v w s).debugRegs = s.debugRegs := rfl
@[simp] theorem trapEntry_mem (b : Bool) (c : BitVec 5) (e v w : Word) (s : State) : (trapEntry b c e v w s).mem = s.mem := rfl
@[simp] theorem trapEntry_inputs (b : Bool) (c : BitVec 5) (e v w : Word) (s : State) : (trapEntry b c e v w s).inputs = s.inputs := rfl
@[simp] theorem trapEntry_stepNo (b : Bool) (c : BitVec 5) (e v w : Word) (s : State) : (trapEntry b c e v w s).stepNo = s.stepNo := rfl
@[simp] theorem trapEntry_draw (b : Bool) (c : BitVec 5) (e v w : Word) (s : State) : (trapEntry b c e v w s).draw = s.draw := rfl

/-! `trapReturn` changes `mstatus`, the mode and the pc only (41_trap_return_and_wait.md R250). -/

@[simp] theorem trapReturn_cfg (s : State) : (trapReturn s).cfg = s.cfg := rfl
@[simp] theorem trapReturn_x (s : State) : (trapReturn s).x = s.x := rfl
@[simp] theorem trapReturn_pc (s : State) : (trapReturn s).pc = s.mepc := rfl
@[simp] theorem trapReturn_priv (s : State) : (trapReturn s).priv = s.mstatus.mpp := rfl
@[simp] theorem trapReturn_debugMode (s : State) : (trapReturn s).debugMode = s.debugMode := rfl
@[simp] theorem trapReturn_sleeping (s : State) : (trapReturn s).sleeping = s.sleeping := rfl
@[simp] theorem trapReturn_fflags (s : State) : (trapReturn s).fflags = s.fflags := rfl
@[simp] theorem trapReturn_frm (s : State) : (trapReturn s).frm = s.frm := rfl
@[simp] theorem trapReturn_mstatus (s : State) : (trapReturn s).mstatus = ⟨s.mstatus.mpie, true, legalMpp s.cfg 0b00, s.mstatus.mprv && s.mstatus.mpp == .machine, s.mstatus.tw⟩ := rfl
@[simp] theorem trapReturn_mie (s : State) : (trapReturn s).mie = s.mie := rfl
@[simp] theorem trapReturn_mtvec (s : State) : (trapReturn s).mtvec = s.mtvec := rfl
@[simp] theorem trapReturn_mcounteren (s : State) : (trapReturn s).mcounteren = s.mcounteren := rfl
@[simp] theorem trapReturn_mscratch (s : State) : (trapReturn s).mscratch = s.mscratch := rfl
@[simp] theorem trapReturn_mepc (s : State) : (trapReturn s).mepc = s.mepc := rfl
@[simp] theorem trapReturn_mcause (s : State) : (trapReturn s).mcause = s.mcause := rfl
@[simp] theorem trapReturn_mtval (s : State) : (trapReturn s).mtval = s.mtval := rfl
@[simp] theorem trapReturn_mtinst (s : State) : (trapReturn s).mtinst = s.mtinst := rfl
@[simp] theorem trapReturn_mip (s : State) : (trapReturn s).mip = s.mip := rfl
@[simp] theorem trapReturn_pmp (s : State) : (trapReturn s).pmp = s.pmp := rfl
@[simp] theorem trapReturn_cycle (s : State) : (trapReturn s).cycle = s.cycle := rfl
@[simp] theorem trapReturn_instret (s : State) : (trapReturn s).instret = s.instret := rfl
@[simp] theorem trapReturn_hpm (s : State) : (trapReturn s).hpm = s.hpm := rfl
@[simp] theorem trapReturn_mcountinhibit (s : State) : (trapReturn s).mcountinhibit = s.mcountinhibit := rfl
@[simp] theorem trapReturn_trigger (s : State) : (trapReturn s).trigger = s.trigger := rfl
@[simp] theorem trapReturn_debugRegs (s : State) : (trapReturn s).debugRegs = s.debugRegs := rfl
@[simp] theorem trapReturn_mem (s : State) : (trapReturn s).mem = s.mem := rfl
@[simp] theorem trapReturn_inputs (s : State) : (trapReturn s).inputs = s.inputs := rfl
@[simp] theorem trapReturn_stepNo (s : State) : (trapReturn s).stepNo = s.stepNo := rfl
@[simp] theorem trapReturn_draw (s : State) : (trapReturn s).draw = s.draw := rfl

/-! `writeX` changes the register file only (10_state.md R20). -/

@[simp] theorem writeX_cfg (r : RegNum) (v : Word) (s : State) : (writeX r v s).cfg = s.cfg := by unfold writeX; split <;> rfl
@[simp] theorem writeX_pc (r : RegNum) (v : Word) (s : State) : (writeX r v s).pc = s.pc := by unfold writeX; split <;> rfl
@[simp] theorem writeX_priv (r : RegNum) (v : Word) (s : State) : (writeX r v s).priv = s.priv := by unfold writeX; split <;> rfl
@[simp] theorem writeX_debugMode (r : RegNum) (v : Word) (s : State) : (writeX r v s).debugMode = s.debugMode := by unfold writeX; split <;> rfl
@[simp] theorem writeX_sleeping (r : RegNum) (v : Word) (s : State) : (writeX r v s).sleeping = s.sleeping := by unfold writeX; split <;> rfl
@[simp] theorem writeX_fflags (r : RegNum) (v : Word) (s : State) : (writeX r v s).fflags = s.fflags := by unfold writeX; split <;> rfl
@[simp] theorem writeX_frm (r : RegNum) (v : Word) (s : State) : (writeX r v s).frm = s.frm := by unfold writeX; split <;> rfl
@[simp] theorem writeX_mstatus (r : RegNum) (v : Word) (s : State) : (writeX r v s).mstatus = s.mstatus := by unfold writeX; split <;> rfl
@[simp] theorem writeX_mie (r : RegNum) (v : Word) (s : State) : (writeX r v s).mie = s.mie := by unfold writeX; split <;> rfl
@[simp] theorem writeX_mtvec (r : RegNum) (v : Word) (s : State) : (writeX r v s).mtvec = s.mtvec := by unfold writeX; split <;> rfl
@[simp] theorem writeX_mcounteren (r : RegNum) (v : Word) (s : State) : (writeX r v s).mcounteren = s.mcounteren := by unfold writeX; split <;> rfl
@[simp] theorem writeX_mscratch (r : RegNum) (v : Word) (s : State) : (writeX r v s).mscratch = s.mscratch := by unfold writeX; split <;> rfl
@[simp] theorem writeX_mepc (r : RegNum) (v : Word) (s : State) : (writeX r v s).mepc = s.mepc := by unfold writeX; split <;> rfl
@[simp] theorem writeX_mcause (r : RegNum) (v : Word) (s : State) : (writeX r v s).mcause = s.mcause := by unfold writeX; split <;> rfl
@[simp] theorem writeX_mtval (r : RegNum) (v : Word) (s : State) : (writeX r v s).mtval = s.mtval := by unfold writeX; split <;> rfl
@[simp] theorem writeX_mtinst (r : RegNum) (v : Word) (s : State) : (writeX r v s).mtinst = s.mtinst := by unfold writeX; split <;> rfl
@[simp] theorem writeX_mip (r : RegNum) (v : Word) (s : State) : (writeX r v s).mip = s.mip := by unfold writeX; split <;> rfl
@[simp] theorem writeX_pmp (r : RegNum) (v : Word) (s : State) : (writeX r v s).pmp = s.pmp := by unfold writeX; split <;> rfl
@[simp] theorem writeX_cycle (r : RegNum) (v : Word) (s : State) : (writeX r v s).cycle = s.cycle := by unfold writeX; split <;> rfl
@[simp] theorem writeX_instret (r : RegNum) (v : Word) (s : State) : (writeX r v s).instret = s.instret := by unfold writeX; split <;> rfl
@[simp] theorem writeX_hpm (r : RegNum) (v : Word) (s : State) : (writeX r v s).hpm = s.hpm := by unfold writeX; split <;> rfl
@[simp] theorem writeX_mcountinhibit (r : RegNum) (v : Word) (s : State) : (writeX r v s).mcountinhibit = s.mcountinhibit := by unfold writeX; split <;> rfl
@[simp] theorem writeX_trigger (r : RegNum) (v : Word) (s : State) : (writeX r v s).trigger = s.trigger := by unfold writeX; split <;> rfl
@[simp] theorem writeX_debugRegs (r : RegNum) (v : Word) (s : State) : (writeX r v s).debugRegs = s.debugRegs := by unfold writeX; split <;> rfl
@[simp] theorem writeX_mem (r : RegNum) (v : Word) (s : State) : (writeX r v s).mem = s.mem := by unfold writeX; split <;> rfl
@[simp] theorem writeX_inputs (r : RegNum) (v : Word) (s : State) : (writeX r v s).inputs = s.inputs := by unfold writeX; split <;> rfl
@[simp] theorem writeX_stepNo (r : RegNum) (v : Word) (s : State) : (writeX r v s).stepNo = s.stepNo := by unfold writeX; split <;> rfl
@[simp] theorem writeX_draw (r : RegNum) (v : Word) (s : State) : (writeX r v s).draw = s.draw := by unfold writeX; split <;> rfl

/-! `accrueFlags` changes `fflags` only (10_state.md R36). -/

@[simp] theorem accrueFlags_cfg (f : BitVec 5) (s : State) : (accrueFlags f s).cfg = s.cfg := by unfold accrueFlags; split <;> rfl
@[simp] theorem accrueFlags_x (f : BitVec 5) (s : State) : (accrueFlags f s).x = s.x := by unfold accrueFlags; split <;> rfl
@[simp] theorem accrueFlags_pc (f : BitVec 5) (s : State) : (accrueFlags f s).pc = s.pc := by unfold accrueFlags; split <;> rfl
@[simp] theorem accrueFlags_priv (f : BitVec 5) (s : State) : (accrueFlags f s).priv = s.priv := by unfold accrueFlags; split <;> rfl
@[simp] theorem accrueFlags_debugMode (f : BitVec 5) (s : State) : (accrueFlags f s).debugMode = s.debugMode := by unfold accrueFlags; split <;> rfl
@[simp] theorem accrueFlags_sleeping (f : BitVec 5) (s : State) : (accrueFlags f s).sleeping = s.sleeping := by unfold accrueFlags; split <;> rfl
@[simp] theorem accrueFlags_frm (f : BitVec 5) (s : State) : (accrueFlags f s).frm = s.frm := by unfold accrueFlags; split <;> rfl
@[simp] theorem accrueFlags_mstatus (f : BitVec 5) (s : State) : (accrueFlags f s).mstatus = s.mstatus := by unfold accrueFlags; split <;> rfl
@[simp] theorem accrueFlags_mie (f : BitVec 5) (s : State) : (accrueFlags f s).mie = s.mie := by unfold accrueFlags; split <;> rfl
@[simp] theorem accrueFlags_mtvec (f : BitVec 5) (s : State) : (accrueFlags f s).mtvec = s.mtvec := by unfold accrueFlags; split <;> rfl
@[simp] theorem accrueFlags_mcounteren (f : BitVec 5) (s : State) : (accrueFlags f s).mcounteren = s.mcounteren := by unfold accrueFlags; split <;> rfl
@[simp] theorem accrueFlags_mscratch (f : BitVec 5) (s : State) : (accrueFlags f s).mscratch = s.mscratch := by unfold accrueFlags; split <;> rfl
@[simp] theorem accrueFlags_mepc (f : BitVec 5) (s : State) : (accrueFlags f s).mepc = s.mepc := by unfold accrueFlags; split <;> rfl
@[simp] theorem accrueFlags_mcause (f : BitVec 5) (s : State) : (accrueFlags f s).mcause = s.mcause := by unfold accrueFlags; split <;> rfl
@[simp] theorem accrueFlags_mtval (f : BitVec 5) (s : State) : (accrueFlags f s).mtval = s.mtval := by unfold accrueFlags; split <;> rfl
@[simp] theorem accrueFlags_mtinst (f : BitVec 5) (s : State) : (accrueFlags f s).mtinst = s.mtinst := by unfold accrueFlags; split <;> rfl
@[simp] theorem accrueFlags_mip (f : BitVec 5) (s : State) : (accrueFlags f s).mip = s.mip := by unfold accrueFlags; split <;> rfl
@[simp] theorem accrueFlags_pmp (f : BitVec 5) (s : State) : (accrueFlags f s).pmp = s.pmp := by unfold accrueFlags; split <;> rfl
@[simp] theorem accrueFlags_cycle (f : BitVec 5) (s : State) : (accrueFlags f s).cycle = s.cycle := by unfold accrueFlags; split <;> rfl
@[simp] theorem accrueFlags_instret (f : BitVec 5) (s : State) : (accrueFlags f s).instret = s.instret := by unfold accrueFlags; split <;> rfl
@[simp] theorem accrueFlags_hpm (f : BitVec 5) (s : State) : (accrueFlags f s).hpm = s.hpm := by unfold accrueFlags; split <;> rfl
@[simp] theorem accrueFlags_mcountinhibit (f : BitVec 5) (s : State) : (accrueFlags f s).mcountinhibit = s.mcountinhibit := by unfold accrueFlags; split <;> rfl
@[simp] theorem accrueFlags_trigger (f : BitVec 5) (s : State) : (accrueFlags f s).trigger = s.trigger := by unfold accrueFlags; split <;> rfl
@[simp] theorem accrueFlags_debugRegs (f : BitVec 5) (s : State) : (accrueFlags f s).debugRegs = s.debugRegs := by unfold accrueFlags; split <;> rfl
@[simp] theorem accrueFlags_mem (f : BitVec 5) (s : State) : (accrueFlags f s).mem = s.mem := by unfold accrueFlags; split <;> rfl
@[simp] theorem accrueFlags_inputs (f : BitVec 5) (s : State) : (accrueFlags f s).inputs = s.inputs := by unfold accrueFlags; split <;> rfl
@[simp] theorem accrueFlags_stepNo (f : BitVec 5) (s : State) : (accrueFlags f s).stepNo = s.stepNo := by unfold accrueFlags; split <;> rfl
@[simp] theorem accrueFlags_draw (f : BitVec 5) (s : State) : (accrueFlags f s).draw = s.draw := by unfold accrueFlags; split <;> rfl

/-! `tick` changes the counters, the pending requests, the trigger and debug registers, the sleep bit and the inputs only. -/

@[simp] theorem tick_cfg (s : State) : (tick s).cfg = s.cfg := rfl
@[simp] theorem tick_x (s : State) : (tick s).x = s.x := rfl
@[simp] theorem tick_pc (s : State) : (tick s).pc = s.pc := rfl
@[simp] theorem tick_priv (s : State) : (tick s).priv = s.priv := rfl
@[simp] theorem tick_debugMode (s : State) : (tick s).debugMode = s.debugMode := rfl
@[simp] theorem tick_sleeping (s : State) : (tick s).sleeping = staysAsleep (nextInput s) s := rfl
@[simp] theorem tick_fflags (s : State) : (tick s).fflags = s.fflags := rfl
@[simp] theorem tick_frm (s : State) : (tick s).frm = s.frm := rfl
@[simp] theorem tick_mstatus (s : State) : (tick s).mstatus = s.mstatus := rfl
@[simp] theorem tick_mie (s : State) : (tick s).mie = s.mie := rfl
@[simp] theorem tick_mtvec (s : State) : (tick s).mtvec = s.mtvec := rfl
@[simp] theorem tick_mcounteren (s : State) : (tick s).mcounteren = s.mcounteren := rfl
@[simp] theorem tick_mscratch (s : State) : (tick s).mscratch = s.mscratch := rfl
@[simp] theorem tick_mepc (s : State) : (tick s).mepc = s.mepc := rfl
@[simp] theorem tick_mcause (s : State) : (tick s).mcause = s.mcause := rfl
@[simp] theorem tick_mtval (s : State) : (tick s).mtval = s.mtval := rfl
@[simp] theorem tick_mtinst (s : State) : (tick s).mtinst = s.mtinst := rfl
@[simp] theorem tick_mip (s : State) : (tick s).mip = (nextInput s).irq := rfl
@[simp] theorem tick_pmp (s : State) : (tick s).pmp = s.pmp := rfl
@[simp] theorem tick_cycle (s : State) : (tick s).cycle = cycleAfter (nextInput s) s := rfl
@[simp] theorem tick_instret (s : State) : (tick s).instret = s.instret := rfl
@[simp] theorem tick_hpm (s : State) : (tick s).hpm = hpmAdvanced (nextInput s) s := rfl
@[simp] theorem tick_mcountinhibit (s : State) : (tick s).mcountinhibit = s.mcountinhibit := rfl
@[simp] theorem tick_trigger (s : State) : (tick s).trigger = (nextInput s).trigger := rfl
@[simp] theorem tick_debugRegs (s : State) : (tick s).debugRegs = (nextInput s).debugRegs := rfl
@[simp] theorem tick_mem (s : State) : (tick s).mem = s.mem := rfl
@[simp] theorem tick_inputs (s : State) : (tick s).inputs = s.inputs.tail := rfl
@[simp] theorem tick_stepNo (s : State) : (tick s).stepNo = s.stepNo + 1 := rfl
@[simp] theorem tick_draw (s : State) : (tick s).draw = nextInput s := rfl

/-! `placeWord` changes memory, the sleep bit and the scheduled inputs only. -/

@[simp] theorem placeWord_cfg (w : Word) (s : State) : (placeWord w s).cfg = s.cfg := rfl
@[simp] theorem placeWord_x (w : Word) (s : State) : (placeWord w s).x = s.x := rfl
@[simp] theorem placeWord_pc (w : Word) (s : State) : (placeWord w s).pc = s.pc := rfl
@[simp] theorem placeWord_priv (w : Word) (s : State) : (placeWord w s).priv = s.priv := rfl
@[simp] theorem placeWord_debugMode (w : Word) (s : State) : (placeWord w s).debugMode = s.debugMode := rfl
@[simp] theorem placeWord_sleeping (w : Word) (s : State) : (placeWord w s).sleeping = false := rfl
@[simp] theorem placeWord_fflags (w : Word) (s : State) : (placeWord w s).fflags = s.fflags := rfl
@[simp] theorem placeWord_frm (w : Word) (s : State) : (placeWord w s).frm = s.frm := rfl
@[simp] theorem placeWord_mstatus (w : Word) (s : State) : (placeWord w s).mstatus = s.mstatus := rfl
@[simp] theorem placeWord_mie (w : Word) (s : State) : (placeWord w s).mie = s.mie := rfl
@[simp] theorem placeWord_mtvec (w : Word) (s : State) : (placeWord w s).mtvec = s.mtvec := rfl
@[simp] theorem placeWord_mcounteren (w : Word) (s : State) : (placeWord w s).mcounteren = s.mcounteren := rfl
@[simp] theorem placeWord_mscratch (w : Word) (s : State) : (placeWord w s).mscratch = s.mscratch := rfl
@[simp] theorem placeWord_mepc (w : Word) (s : State) : (placeWord w s).mepc = s.mepc := rfl
@[simp] theorem placeWord_mcause (w : Word) (s : State) : (placeWord w s).mcause = s.mcause := rfl
@[simp] theorem placeWord_mtval (w : Word) (s : State) : (placeWord w s).mtval = s.mtval := rfl
@[simp] theorem placeWord_mtinst (w : Word) (s : State) : (placeWord w s).mtinst = s.mtinst := rfl
@[simp] theorem placeWord_mip (w : Word) (s : State) : (placeWord w s).mip = s.mip := rfl
@[simp] theorem placeWord_pmp (w : Word) (s : State) : (placeWord w s).pmp = s.pmp := rfl
@[simp] theorem placeWord_cycle (w : Word) (s : State) : (placeWord w s).cycle = s.cycle := rfl
@[simp] theorem placeWord_instret (w : Word) (s : State) : (placeWord w s).instret = s.instret := rfl
@[simp] theorem placeWord_hpm (w : Word) (s : State) : (placeWord w s).hpm = s.hpm := rfl
@[simp] theorem placeWord_mcountinhibit (w : Word) (s : State) : (placeWord w s).mcountinhibit = s.mcountinhibit := rfl
@[simp] theorem placeWord_trigger (w : Word) (s : State) : (placeWord w s).trigger = s.trigger := rfl
@[simp] theorem placeWord_debugRegs (w : Word) (s : State) : (placeWord w s).debugRegs = s.debugRegs := rfl
@[simp] theorem placeWord_mem (w : Word) (s : State) : (placeWord w s).mem = Memory.writeBytes s.mem s.pc (bytesOfWord w) := rfl
@[simp] theorem placeWord_inputs (w : Word) (s : State) : (placeWord w s).inputs = { nextInput s with reset := none, takeIrq := false } :: s.inputs.tail := rfl
@[simp] theorem placeWord_stepNo (w : Word) (s : State) : (placeWord w s).stepNo = s.stepNo := rfl
@[simp] theorem placeWord_draw (w : Word) (s : State) : (placeWord w s).draw = s.draw := rfl

/-! `raiseException` is a trap entry of the counted state (60_exceptions.md R270, R285). -/

@[simp] theorem raiseException_cfg (c : ExcCause) (w : Word) (s : State) : (raiseException c w s).cfg = s.cfg := rfl
@[simp] theorem raiseException_x (c : ExcCause) (w : Word) (s : State) : (raiseException c w s).x = s.x := rfl
@[simp] theorem raiseException_pc (c : ExcCause) (w : Word) (s : State) : (raiseException c w s).pc = trapTarget s false (ExcCause.code c) := rfl
@[simp] theorem raiseException_priv (c : ExcCause) (w : Word) (s : State) : (raiseException c w s).priv = .machine := rfl
@[simp] theorem raiseException_debugMode (c : ExcCause) (w : Word) (s : State) : (raiseException c w s).debugMode = s.debugMode := rfl
@[simp] theorem raiseException_sleeping (c : ExcCause) (w : Word) (s : State) : (raiseException c w s).sleeping = s.sleeping := rfl
@[simp] theorem raiseException_fflags (c : ExcCause) (w : Word) (s : State) : (raiseException c w s).fflags = s.fflags := rfl
@[simp] theorem raiseException_frm (c : ExcCause) (w : Word) (s : State) : (raiseException c w s).frm = s.frm := rfl
@[simp] theorem raiseException_mstatus (c : ExcCause) (w : Word) (s : State) : (raiseException c w s).mstatus = ⟨false, s.mstatus.mie, legalMpp s.cfg (privBits s.priv), s.mstatus.mprv, s.mstatus.tw⟩ := rfl
@[simp] theorem raiseException_mie (c : ExcCause) (w : Word) (s : State) : (raiseException c w s).mie = s.mie := rfl
@[simp] theorem raiseException_mtvec (c : ExcCause) (w : Word) (s : State) : (raiseException c w s).mtvec = s.mtvec := rfl
@[simp] theorem raiseException_mcounteren (c : ExcCause) (w : Word) (s : State) : (raiseException c w s).mcounteren = s.mcounteren := rfl
@[simp] theorem raiseException_mscratch (c : ExcCause) (w : Word) (s : State) : (raiseException c w s).mscratch = s.mscratch := rfl
@[simp] theorem raiseException_mepc (c : ExcCause) (w : Word) (s : State) : (raiseException c w s).mepc = alignPc s.cfg s.pc := rfl
@[simp] theorem raiseException_mcause (c : ExcCause) (w : Word) (s : State) : (raiseException c w s).mcause = ⟨false, ExcCause.code c⟩ := rfl
@[simp] theorem raiseException_mtval (c : ExcCause) (w : Word) (s : State) : (raiseException c w s).mtval = mtvalOf c s := rfl
@[simp] theorem raiseException_mtinst (c : ExcCause) (w : Word) (s : State) : (raiseException c w s).mtinst = mtinstOf w s := rfl
@[simp] theorem raiseException_mip (c : ExcCause) (w : Word) (s : State) : (raiseException c w s).mip = s.mip := rfl
@[simp] theorem raiseException_pmp (c : ExcCause) (w : Word) (s : State) : (raiseException c w s).pmp = s.pmp := rfl
@[simp] theorem raiseException_cycle (c : ExcCause) (w : Word) (s : State) : (raiseException c w s).cycle = s.cycle := rfl
@[simp] theorem raiseException_instret (c : ExcCause) (w : Word) (s : State) : (raiseException c w s).instret = instretNext s := rfl
@[simp] theorem raiseException_hpm (c : ExcCause) (w : Word) (s : State) : (raiseException c w s).hpm = s.hpm := rfl
@[simp] theorem raiseException_mcountinhibit (c : ExcCause) (w : Word) (s : State) : (raiseException c w s).mcountinhibit = s.mcountinhibit := rfl
@[simp] theorem raiseException_trigger (c : ExcCause) (w : Word) (s : State) : (raiseException c w s).trigger = s.trigger := rfl
@[simp] theorem raiseException_debugRegs (c : ExcCause) (w : Word) (s : State) : (raiseException c w s).debugRegs = s.debugRegs := rfl
@[simp] theorem raiseException_mem (c : ExcCause) (w : Word) (s : State) : (raiseException c w s).mem = s.mem := rfl
@[simp] theorem raiseException_inputs (c : ExcCause) (w : Word) (s : State) : (raiseException c w s).inputs = s.inputs := rfl
@[simp] theorem raiseException_stepNo (c : ExcCause) (w : Word) (s : State) : (raiseException c w s).stepNo = s.stepNo := rfl
@[simp] theorem raiseException_draw (c : ExcCause) (w : Word) (s : State) : (raiseException c w s).draw = s.draw := rfl

/-! `cpuReset` keeps the configuration and sets every other register of the spec (70_reset_and_hazards.md R320 to R323). -/

@[simp] theorem cpuReset_cfg (r : ResetValues) (s : State) : (cpuReset r s).cfg = s.cfg := by unfold cpuReset State.resetOf; rfl
@[simp] theorem cpuReset_pc (r : ResetValues) (s : State) : (cpuReset r s).pc = (State.resetOf s.cfg).pc := rfl
@[simp] theorem cpuReset_priv (r : ResetValues) (s : State) : (cpuReset r s).priv = (State.resetOf s.cfg).priv := rfl
@[simp] theorem cpuReset_debugMode (r : ResetValues) (s : State) : (cpuReset r s).debugMode = (State.resetOf s.cfg).debugMode := rfl
@[simp] theorem cpuReset_sleeping (r : ResetValues) (s : State) : (cpuReset r s).sleeping = (State.resetOf s.cfg).sleeping := rfl
@[simp] theorem cpuReset_fflags (r : ResetValues) (s : State) : (cpuReset r s).fflags = (State.resetOf s.cfg).fflags := rfl
@[simp] theorem cpuReset_frm (r : ResetValues) (s : State) : (cpuReset r s).frm = (State.resetOf s.cfg).frm := rfl
@[simp] theorem cpuReset_mstatus (r : ResetValues) (s : State) : (cpuReset r s).mstatus = (State.resetOf s.cfg).mstatus := rfl
@[simp] theorem cpuReset_mie (r : ResetValues) (s : State) : (cpuReset r s).mie = (State.resetOf s.cfg).mie := rfl
@[simp] theorem cpuReset_mtvec (r : ResetValues) (s : State) : (cpuReset r s).mtvec = (State.resetOf s.cfg).mtvec := rfl
@[simp] theorem cpuReset_mcounteren (r : ResetValues) (s : State) : (cpuReset r s).mcounteren = (State.resetOf s.cfg).mcounteren := rfl
@[simp] theorem cpuReset_mscratch (r : ResetValues) (s : State) : (cpuReset r s).mscratch = (State.resetOf s.cfg).mscratch := rfl
@[simp] theorem cpuReset_mepc (r : ResetValues) (s : State) : (cpuReset r s).mepc = (State.resetOf s.cfg).mepc := rfl
@[simp] theorem cpuReset_mcause (r : ResetValues) (s : State) : (cpuReset r s).mcause = (State.resetOf s.cfg).mcause := rfl
@[simp] theorem cpuReset_mtval (r : ResetValues) (s : State) : (cpuReset r s).mtval = (State.resetOf s.cfg).mtval := rfl
@[simp] theorem cpuReset_mtinst (r : ResetValues) (s : State) : (cpuReset r s).mtinst = (State.resetOf s.cfg).mtinst := rfl
@[simp] theorem cpuReset_mip (r : ResetValues) (s : State) : (cpuReset r s).mip = (State.resetOf s.cfg).mip := rfl
@[simp] theorem cpuReset_pmp (r : ResetValues) (s : State) : (cpuReset r s).pmp = (State.resetOf s.cfg).pmp := rfl
@[simp] theorem cpuReset_cycle (r : ResetValues) (s : State) : (cpuReset r s).cycle = (State.resetOf s.cfg).cycle := rfl
@[simp] theorem cpuReset_instret (r : ResetValues) (s : State) : (cpuReset r s).instret = (State.resetOf s.cfg).instret := rfl
@[simp] theorem cpuReset_hpm (r : ResetValues) (s : State) : (cpuReset r s).hpm = (State.resetOf s.cfg).hpm := rfl
@[simp] theorem cpuReset_mcountinhibit (r : ResetValues) (s : State) : (cpuReset r s).mcountinhibit = (State.resetOf s.cfg).mcountinhibit := rfl
@[simp] theorem cpuReset_trigger (r : ResetValues) (s : State) : (cpuReset r s).trigger = (nextInput s).trigger := rfl
@[simp] theorem cpuReset_debugRegs (r : ResetValues) (s : State) : (cpuReset r s).debugRegs = (nextInput s).debugRegs := rfl
@[simp] theorem cpuReset_mem (r : ResetValues) (s : State) : (cpuReset r s).mem = Memory.writeCells [] r.bytes := rfl
@[simp] theorem cpuReset_inputs (r : ResetValues) (s : State) : (cpuReset r s).inputs = s.inputs.tail := rfl
@[simp] theorem cpuReset_stepNo (r : ResetValues) (s : State) : (cpuReset r s).stepNo = s.stepNo + 1 := rfl
@[simp] theorem cpuReset_draw (r : ResetValues) (s : State) : (cpuReset r s).draw = nextInput s := rfl

end Sys2Proof.Machine
end

