-- ==== Sys2Proof/Laws/Registers.lean ====
section
/-! SUPPORT. The general registers, the PMP regions and the monitors through their accessors. -/

namespace Sys2Proof.Machine

/-- `x0` reads as zero (10_state.md R20). -/
@[simp] theorem readX_zero (s : State) : readX s 0#5 = 0#32 := by simp [readX]

/-- A register reads what was last written to it, `x0` excepted (R20). -/
theorem readX_writeX_same {r : RegNum} (v : Word) (s : State) (h : r ≠ 0) : readX (writeX r v s) r = v := by
  rw [writeX, if_neg h, readX, if_neg h]
  simp

/-- A write leaves every other register alone. -/
theorem readX_writeX_other {r q : RegNum} (v : Word) (s : State) (h : q ≠ r) : readX (writeX r v s) q = readX s q := by
  have hn : r.toNat ≠ q.toNat := fun e => h (BitVec.eq_of_toNat_eq e.symm)
  unfold readX writeX
  split
  · rfl
  · split
    · rfl
    · simp [hn]

/-- A write to `x0` is discarded (R20). -/
@[simp] theorem writeX_zero (v : Word) (s : State) : writeX 0#5 v s = s := by simp [writeX]

/-- Two states with the same register file read the same. -/
theorem readX_congr {s t : State} (h : t.x = s.x) (r : RegNum) : readX t r = readX s r := by simp [readX, h]

/-- Two states with the same regions show the same region. -/
theorem region_congr {s t : State} (h : t.pmp = s.pmp) (i : Nat) : t.region i = s.region i := by simp [State.region, h]

/-- Two states with the same monitors show the same monitor. -/
theorem monitor_congr {s t : State} (h : t.hpm = s.hpm) (n : Nat) : t.monitor n = s.monitor n := by simp [State.monitor, h]

/-- A region read back from a vector built by a function. -/
theorem region_ofFn (s : State) (f : Fin 16 → PmpRegion) (i : Nat) :
    State.region { s with pmp := Vector.ofFn f } i = if h : i < 16 then f ⟨i, h⟩ else {} := by
  unfold State.region
  by_cases h : i < 16
  · simp [h]
  · simp [h]

/-- A monitor read back from a vector built by a function. -/
theorem monitor_ofFn (s : State) (f : Fin 13 → HpmMonitor) (n : Nat) :
    State.monitor { s with hpm := Vector.ofFn f } n = if h : n < 13 then f ⟨n, h⟩ else {} := by
  unfold State.monitor
  by_cases h : n < 13
  · simp [h]
  · simp [h]

/-- The regions, read one by one, are the regions. -/
theorem ofFn_region (s : State) : Vector.ofFn (fun i : Fin 16 => s.region i.val) = s.pmp := by
  ext i hi <;> simp [State.region]

/-- The monitors, read one by one, are the monitors. -/
theorem ofFn_monitor (s : State) : Vector.ofFn (fun n : Fin 13 => s.monitor n.val) = s.hpm := by
  ext i hi <;> simp [State.monitor]

/-- There is no region past number 15. -/
theorem region_past (s : State) {i : Nat} (h : 16 ≤ i) : s.region i = {} := by
  have : ¬ i < 16 := by omega
  simp [State.region, this]

/-- There is no monitor past number 15. -/
theorem monitor_past (s : State) {n : Nat} (h : 13 ≤ n) : s.monitor n = {} := by
  have : ¬ n < 13 := by omega
  simp [State.monitor, this]

end Sys2Proof.Machine
end

