-- ==== Sys2Proof/Laws/Ops.lean ====
section
/-! SUPPORT. For each shared operation, once, everything it can do. -/

namespace Sys2Proof.Machine

/-- The machine is refused exactly where it is not running. -/
theorem machineRefusal_none_iff (s : State) : machineRefusal s = none ↔ Running s := by
  unfold machineRefusal
  constructor
  · intro h
    split at h
    · cases h
    · next hd =>
      split at h
      · cases h
      · next hz => exact ⟨by simpa using hd, by simpa using hz⟩
  · intro ⟨hd, hz⟩
    simp [hd, hz]

/-- A running machine runs a well-formed instruction. -/
theorem inScope_running {i : Instr} {s : State} {r : Result} (h : Running s) (hw : i.wellFormed s.cfg = true) :
    inScope i s r = r := by
  simp [inScope, (machineRefusal_none_iff s).mpr h, hw]

/-- Where the guard lets an instruction through, the machine runs, its registers exist and its meaning answers. -/
theorem inScope_next {i : Instr} {s t : State} {r : Result} (h : inScope i s r = .next t) :
    Running s ∧ i.wellFormed s.cfg = true ∧ r = .next t := by
  unfold inScope at h
  split at h
  · cases h
  · next hn =>
    split at h
    · next hw => exact ⟨(machineRefusal_none_iff s).mp hn, hw, h⟩
    · cases h

/-- What a CSR write never touches (10_state.md R31). -/
structure KeptByCsrWrite (s t : State) : Prop where
  cfg : t.cfg = s.cfg
  x : t.x = s.x
  pc : t.pc = s.pc
  priv : t.priv = s.priv
  debugMode : t.debugMode = s.debugMode
  sleeping : t.sleeping = s.sleeping
  mcause : t.mcause = s.mcause
  mtval : t.mtval = s.mtval
  mtinst : t.mtinst = s.mtinst
  mip : t.mip = s.mip
  trigger : t.trigger = s.trigger
  debugRegs : t.debugRegs = s.debugRegs
  mem : t.mem = s.mem
  inputs : t.inputs = s.inputs
  stepNo : t.stepNo = s.stepNo
  draw : t.draw = s.draw

/-- A CSR write touches CSRs only. -/
theorem csrWrite_kept {c : Csr} {v : Word} {s t : State} (h : csrWrite c v s = .ok t) : KeptByCsrWrite s t := by
  cases c <;> simp only [csrWrite, Except.ok.injEq, reduceCtorEq] at h <;> subst h <;> constructor <;> rfl

/-- Only the trigger and debug registers refuse a write. -/
theorem csrWrite_ok {c : Csr} (v : Word) (s : State) (ht : isTriggerCsr c = false) (hd : isDebugCsr c = false) :
    ∃ t, csrWrite c v s = .ok t := by
  cases c <;> simp_all [csrWrite, isTriggerCsr, isDebugCsr]

/-- What a CSR access that passed its check does (40_zicsr_access.md R220). -/
theorem csrModify_next {c : Csr} {rd : RegNum} {wr : Bool} {new : Word → Word} {s t : State}
    (h : csrModify c rd wr new s = .next t) :
    ∃ u, (if wr then csrWrite c (new (csrRead c s)) s else .ok s) = .ok u ∧
      t = writeX rd (csrRead c s)
        { u with
          pc := nextPc s
          instret := if wr && c.isInstret then u.instret else instretNext s } := by
  unfold csrModify at h
  split at h
  · cases h
  · next u hu => exact ⟨u, hu, by cases h; rfl⟩

/-- A CSR access whose write is accepted completes. -/
theorem csrModify_eq {c : Csr} {rd : RegNum} {wr : Bool} {new : Word → Word} {s u : State}
    (h : (if wr then csrWrite c (new (csrRead c s)) s else .ok s) = .ok u) :
    csrModify c rd wr new s = .next (writeX rd (csrRead c s)
      { u with
        pc := nextPc s
        instret := if wr && c.isInstret then u.instret else instretNext s }) := by
  simp [csrModify, h]

/-- A CSR access at the address of a CSR. -/
theorem csrAccess_addr (i : Instr) (c : Csr) (rd : RegNum) (wr : Bool) (new : Word → Word) (s : State) :
    csrAccess i c.addr rd wr new s =
      if csrAllowed c wr s then csrModify c rd wr new s else .next (raiseIllegal i s) := by
  simp [csrAccess]

/-- A CSR access at an address outside the table (10_state.md R25). -/
theorem csrAccess_unlisted (i : Instr) {a : CsrAddr} (rd : RegNum) (wr : Bool) (new : Word → Word) (s : State)
    (h : a ∉ Csr.all.map Csr.addr) : csrAccess i a rd wr new s = .next (raiseIllegal i s) := by
  simp [csrAccess, csrOfAddr_none h]

/-- A CSR access that goes on either raised the illegal-instruction exception or passed the check at a listed address. -/
theorem csrAccess_next {i : Instr} {a : CsrAddr} {rd : RegNum} {wr : Bool} {new : Word → Word} {s t : State}
    (h : csrAccess i a rd wr new s = .next t) :
    t = raiseIllegal i s ∨
      ∃ c, c.addr = a ∧ csrAllowed c wr s = true ∧ csrModify c rd wr new s = .next t := by
  unfold csrAccess at h
  split at h
  · cases h; exact .inl rfl
  · next c hc =>
    split at h
    · next ha => exact .inr ⟨c, csrOfAddr_addr_eq hc, ha, h⟩
    · cases h; exact .inl rfl

/-- What an instruction that goes on has done. -/
inductive ExecEffect (i : Instr) (s t : State) : Prop where
  /-- It raised the illegal-instruction exception. -/
  | illegal (h : t = raiseIllegal i s)
  /-- It accessed a CSR. -/
  | csr (c : Csr) (rd : RegNum) (wr : Bool) (access : Instr.access i = some (c.addr, wr)) (dest : Instr.dest i = some rd)
      (allowed : csrAllowed c wr s = true) (h : csrModify c rd wr (Instr.newValue i s) s = .next t)
  /-- It returned from a trap. -/
  | ret (hi : i = .mret) (mode : s.priv = .machine) (h : t = trapReturn (countInstr s))
  /-- It waits for an interrupt. -/
  | wait (hi : i = .wfi) (mode : ¬(s.priv = .user ∧ s.mstatus.tw = true))
      (h : t = { countInstr s with pc := nextPc s, sleeping := s.draw.sleep })

/-- Everything an instruction can do when it goes on. -/
theorem exec_next {i : Instr} {s t : State} (h : exec i s = .next t) :
    Running s ∧ i.wellFormed s.cfg = true ∧ ExecEffect i s t := by
  cases i with
  | mret =>
    obtain ⟨hr, hw, h⟩ := inScope_next h
    refine ⟨hr, hw, ?_⟩
    split at h
    · next hm => cases h; exact .ret rfl hm rfl
    · cases h; exact .illegal rfl
  | wfi =>
    obtain ⟨hr, hw, h⟩ := inScope_next h
    refine ⟨hr, hw, ?_⟩
    split at h
    · cases h; exact .illegal rfl
    · next hm => cases h; exact .wait rfl hm rfl
  | _ =>
    obtain ⟨hr, hw, h⟩ := inScope_next h
    refine ⟨hr, hw, ?_⟩
    obtain h | ⟨c, rfl, ha, h⟩ := csrAccess_next h
    · exact .illegal h
    · exact .csr c _ _ rfl rfl ha h

/-- An instruction that names a CSR address is the common step at that address, on a running machine that has its registers. -/
theorem exec_access {i : Instr} {a : CsrAddr} {wr : Bool} {s : State} (hr : Running s) (hw : i.wellFormed s.cfg = true)
    (h : Instr.access i = some (a, wr)) :
    ∃ rd, Instr.dest i = some rd ∧ exec i s = csrAccess i a rd wr (Instr.newValue i s) s := by
  cases i <;> simp [Instr.access] at h <;> obtain ⟨rfl, rfl⟩ := h <;> exact ⟨_, rfl, inScope_running hr hw⟩

/-- A CSR access that fails the check raises the illegal-instruction exception (10_state.md R28, R229). -/
theorem exec_denied {i : Instr} {a : CsrAddr} {wr : Bool} {s : State} (hr : Running s) (hw : i.wellFormed s.cfg = true)
    (h : Instr.access i = some (a, wr)) (hd : csrCheck a wr s = false) : exec i s = .next (raiseIllegal i s) := by
  obtain ⟨rd, -, he⟩ := exec_access hr hw h
  rw [he]
  unfold csrAccess csrCheck at *
  split at hd <;> simp_all

/-- A CSR access that passes the check reads and modifies the CSR (40_zicsr_access.md R220). -/
theorem exec_allowed {i : Instr} {c : Csr} {wr : Bool} {s : State} (hr : Running s) (hw : i.wellFormed s.cfg = true)
    (h : Instr.access i = some (c.addr, wr)) (hd : csrAllowed c wr s = true) :
    ∃ rd, Instr.dest i = some rd ∧ exec i s = csrModify c rd wr (Instr.newValue i s) s := by
  obtain ⟨rd, hrd, he⟩ := exec_access hr hw h
  exact ⟨rd, hrd, by rw [he]; simp [csrAccess, hd]⟩

/-- A register file after a CSR access: `rd` holds the old value of the CSR, `x0` discards it. -/
theorem csrModify_x {c : Csr} {rd : RegNum} {wr : Bool} {new : Word → Word} {s t : State}
    (h : csrModify c rd wr new s = .next t) : t.x = (writeX rd (csrRead c s) s).x := by
  obtain ⟨u, hu, rfl⟩ := csrModify_next h
  have hx : u.x = s.x := by
    split at hu
    · exact (csrWrite_kept hu).x
    · cases hu; rfl
  unfold writeX
  split
  · exact hx
  · simp [hx]

/-- The regions after a write to `pmpcfg<k>` (11 R103). -/
theorem region_pmpAfterCfg (k : Nat) (v : Word) (s : State) (i : Nat) :
    State.region { s with pmp := pmpAfterCfg k v s } i =
      if i < 16 ∧ i / 4 = k ∧ i < s.cfg.pmpNumRegions then (s.region i).withCfg s.cfg (byteOf v (i % 4)) else s.region i := by
  unfold pmpAfterCfg
  rw [region_ofFn]
  by_cases h : i < 16
  · simp [h]
  · simp [h, region_past s (by omega : 16 ≤ i)]

/-- The regions after a write to `pmpaddr<j>` (11 R108). -/
theorem region_pmpAfterAddr (j : Nat) (v : Word) (s : State) (i : Nat) :
    State.region { s with pmp := pmpAfterAddr j v s } i =
      if i < 16 ∧ i = j ∧ pmpaddrWritable s j = true then { s.region i with addr := legalPmpAddr s.cfg v } else s.region i := by
  unfold pmpAfterAddr
  rw [region_ofFn]
  by_cases h : i < 16
  · simp [h]
  · simp [h, region_past s (by omega : 16 ≤ i)]

/-- The monitors after a write to a register of monitor `j + 3` (11 R119). -/
theorem monitor_hpmAfter (j : Nat) (f : HpmMonitor → HpmMonitor) (s : State) (n : Nat) :
    State.monitor { s with hpm := hpmAfter j f s } n =
      if n < 13 ∧ n = j ∧ monitorReal s.cfg j = true then f (s.monitor n) else s.monitor n := by
  unfold hpmAfter
  rw [monitor_ofFn]
  by_cases h : n < 13
  · simp [h]
  · simp [h, monitor_past s (by omega : 13 ≤ n)]

/-- The monitors after time has passed (11 R124). -/
theorem monitor_tick (s : State) (n : Nat) (h : n < 13) :
    (tick s).monitor n =
      if monitorCounts (nextInput s) s n then
        { s.monitor n with
          cnt := ((s.monitor n).cnt + BitVec.ofNat 64 (nextInput s).hpm[n]) &&& widthMask s.cfg.hpmCntWidth }
      else s.monitor n := by
  simp [State.monitor, hpmAdvanced, h]

/-- The register writes of an out-of-scope instruction touch the register file only. -/
theorem writeRegs_kept (ws : List (RegNum × Word)) (s : State) : writeRegs ws s = { s with x := (writeRegs ws s).x } := by
  induction ws generalizing s with
  | nil => rfl
  | cons w rest ih =>
    obtain ⟨r, v⟩ := w
    simp only [writeRegs]
    rw [ih]
    split
    · unfold writeX
      split <;> rfl
    · rfl

/-- What an out-of-scope instruction that raises an exception does (60_exceptions.md R270, R280). -/
theorem foreignStep_exception {w : Word} {s : State} {c : ExcCause} (h : foreignException s = some c) :
    foreignStep w s = raiseException c w (accrueFlags s.draw.foreign.fflags s) := by
  simp [foreignStep, h]

/-- What an out-of-scope instruction that raises no exception does: flags, registers, memory, the count and the pc. -/
theorem foreignStep_completes {w : Word} {s : State} (h : foreignException s = none) :
    foreignStep w s =
      { accrueFlags s.draw.foreign.fflags s with
        x := (writeRegs s.draw.foreign.regWrites (accrueFlags s.draw.foreign.fflags s)).x
        mem := storeAll s.mem s.draw.foreign.accesses
        instret := instretNext s
        pc := alignPc s.cfg s.draw.foreign.nextPc } := by
  simp only [foreignStep, h]
  rw [writeRegs_kept]

/-- An out-of-scope instruction with no exception of its own and no denied access raises none. -/
theorem foreignException_none {s : State} (he : s.draw.foreign.exception = none)
    (ha : ∀ a ∈ s.draw.foreign.accesses, MemAccess.denied s a = false) : foreignException s = none := by
  simp only [foreignException, he, Option.map_eq_none_iff, List.find?_eq_none]
  intro a hm
  simp [ha a hm]

/-- The first denied access of an out-of-scope instruction with no exception of its own decides (20_memory.md R174). -/
theorem foreignException_denied {s : State} {before after : List MemAccess} {a : MemAccess}
    (he : s.draw.foreign.exception = none) (hs : s.draw.foreign.accesses = before ++ a :: after)
    (hb : ∀ b ∈ before, MemAccess.denied s b = false) (ha : MemAccess.denied s a = true) :
    foreignException s = some (AccessKind.faultCause (MemAccess.kind a)) := by
  have hn : before.find? (MemAccess.denied s) = none := by
    rw [List.find?_eq_none]
    intro b hm
    simp [hb b hm]
  simp [foreignException, he, hs, List.find?_append, hn, ha]

/-- The legal form of a mode is a mode of the configuration (00_scope.md R13): OFF is always one. -/
theorem implementsMode_orOff (c : Cfg) (a : BitVec 2) : c.implementsMode (orOff c a) = true := by
  unfold orOff
  split
  · assumption
  · simp [Cfg.implementsMode]

/-- The general registers after a reset of the running hart: the step's values, none in a register that does not exist
(70_reset_and_hazards.md R323). -/
theorem readX_cpuReset (r : ResetValues) (s : State) (q : RegNum) :
    readX (cpuReset r s) q = if q = 0 then 0 else if RegNum.existsIn s.cfg q then r.regs[q.toNat] else 0 := by
  unfold readX cpuReset
  simp

end Sys2Proof.Machine
end

