-- ==== Sys2Proof/Laws/PerInstr.lean ====
section
/-! SUPPORT. Facts about every instruction as syntax, one lemma for each constructor of Instr. -/

namespace Sys2Proof.Laws

open Sys2Proof

/-- The funct3 of an instruction's row in spec/opcode_table.json (30_encoding.md R194). -/
def rowFunct3 : Instr → BitVec 3
  | .csrrw _ _ _ => 0b001
  | .csrrs _ _ _ => 0b010
  | .csrrc _ _ _ => 0b011
  | .csrrwi _ _ _ => 0b101
  | .csrrsi _ _ _ => 0b110
  | .csrrci _ _ _ => 0b111
  | .mret => 0b000
  | .wfi => 0b000

/-- An instruction's word has the fixed bits that its row gives under the mask 0x707f: the opcode SYSTEM and the funct3. -/
def MatchesRow.Statement (i : Instr) : Prop :=
  (encode i).extractLsb' 0 7 = 0b1110011#7 ∧ fieldFunct3 (encode i) = rowFunct3 i

theorem MatchesRow.csrrw (rd : RegNum) (csr : CsrAddr) (rs1 : RegNum) : MatchesRow.Statement (.csrrw rd csr rs1) :=
  ⟨opcode_systemWord .., fieldFunct3_systemWord ..⟩

theorem MatchesRow.csrrs (rd : RegNum) (csr : CsrAddr) (rs1 : RegNum) : MatchesRow.Statement (.csrrs rd csr rs1) :=
  ⟨opcode_systemWord .., fieldFunct3_systemWord ..⟩

theorem MatchesRow.csrrc (rd : RegNum) (csr : CsrAddr) (rs1 : RegNum) : MatchesRow.Statement (.csrrc rd csr rs1) :=
  ⟨opcode_systemWord .., fieldFunct3_systemWord ..⟩

theorem MatchesRow.csrrwi (rd : RegNum) (csr : CsrAddr) (uimm : BitVec 5) : MatchesRow.Statement (.csrrwi rd csr uimm) :=
  ⟨opcode_systemWord .., fieldFunct3_systemWord ..⟩

theorem MatchesRow.csrrsi (rd : RegNum) (csr : CsrAddr) (uimm : BitVec 5) : MatchesRow.Statement (.csrrsi rd csr uimm) :=
  ⟨opcode_systemWord .., fieldFunct3_systemWord ..⟩

theorem MatchesRow.csrrci (rd : RegNum) (csr : CsrAddr) (uimm : BitVec 5) : MatchesRow.Statement (.csrrci rd csr uimm) :=
  ⟨opcode_systemWord .., fieldFunct3_systemWord ..⟩

theorem MatchesRow.mret : MatchesRow.Statement .mret := ⟨rfl, rfl⟩

theorem MatchesRow.wfi : MatchesRow.Statement .wfi := ⟨rfl, rfl⟩

end Sys2Proof.Laws
end

