-- ==== Sys2Proof/Laws/Step.lean ====
section
/-! SUPPORT. Everything a step of the machine can do. -/

namespace Sys2Proof.Machine

/-- A taken interrupt is takeable (60_exceptions.md R277) and is the configured order's first such source (R278). -/
theorem interruptTaken_some {s : State} {i : IrqSource} (h : interruptTaken s = some i) :
    s.draw.takeIrq = true ∧ s.cfg.irqPriority.find? (takeable s) = some i ∧ takeable s i = true := by
  unfold interruptTaken urgentIrq at h
  split at h
  · cases h
  · next j hj =>
    split at h
    · next ht =>
      cases h
      split at hj
      · exact ⟨ht, hj, List.find?_some hj⟩
      · cases hj
    · cases h

/-- The next input of a state in which an instruction word has been placed. -/
@[simp] theorem nextInput_placeWord (w : Word) (s : State) :
    nextInput (placeWord w s) = { nextInput s with reset := none, takeIrq := false } := rfl

/-- A step of a running hart whose input says so is a reset (70_reset_and_hazards.md R320). -/
theorem step_reset {s : State} {r : ResetValues} (h : Running s) (hr : (nextInput s).reset = some r) :
    step s = .next (cpuReset r s) := by
  simp only [step, (machineRefusal_none_iff s).mpr h, stepOrReset, hr]

/-- A step of a running hart that is not reset is what follows the passing of time. -/
theorem step_running {s : State} (h : Running s) (hr : (nextInput s).reset = none) : step s = stepAfterTick (tick s) := by
  simp only [step, (machineRefusal_none_iff s).mpr h, stepOrReset, hr]

/-- A step of a running hart that is awake is the boundary that follows the passing of time. -/
theorem step_awake {s : State} (h : Running s) (hr : (nextInput s).reset = none) (hs : staysAsleep (nextInput s) s = false) :
    step s = boundary (tick s) := by
  rw [step_running h hr, stepAfterTick, if_neg]
  simpa using hs

/-- A step of a running hart that sleeps on is the passing of time. -/
theorem step_asleep {s : State} (h : Running s) (hr : (nextInput s).reset = none) (hs : staysAsleep (nextInput s) s = true) :
    step s = .next (tick s) := by
  rw [step_running h hr, stepAfterTick, if_pos]
  exact hs

/-- What a step that goes on without a reset has done, from the state `u` in which time has passed. -/
inductive StepEffect (u t : State) : Prop where
  /-- The hart sleeps on. -/
  | asleep (hs : u.sleeping = true) (h : t = u)
  /-- An interrupt was taken. -/
  | interrupt (hs : u.sleeping = false) (i : IrqSource) (hi : interruptTaken u = some i) (h : t = enterInterrupt i u)
  /-- The fetch failed the PMP check. -/
  | fetchFault (hs : u.sleeping = false) (hn : interruptTaken u = none) (hf : fetch u = .accessFault) (h : t = raiseFetchFault u)
  /-- An out-of-scope instruction ran. -/
  | foreign (hs : u.sleeping = false) (hn : interruptTaken u = none) (w : Word) (hf : fetch u = .word w) (e : DecodeError)
      (hd : decode w = .error e) (h : t = foreignStep w u)
  /-- One of the eight instructions ran. -/
  | ran (hs : u.sleeping = false) (hn : interruptTaken u = none) (w : Word) (hf : fetch u = .word w) (i : Instr)
      (hd : decode w = .ok i) (h : exec i u = .next t)

/-- Everything a step can do when it goes on. -/
theorem step_next {s t : State} (h : step s = .next t) :
    Running s ∧ ((∃ r, (nextInput s).reset = some r ∧ t = cpuReset r s)
      ∨ ((nextInput s).reset = none ∧ StepEffect (tick s) t)) := by
  unfold step at h
  split at h
  · cases h
  · next hr =>
    refine ⟨(machineRefusal_none_iff s).mp hr, ?_⟩
    unfold stepOrReset at h
    split at h
    · next r hz => cases h; exact .inl ⟨r, hz, rfl⟩
    next hz =>
    refine .inr ⟨hz, ?_⟩
    unfold stepAfterTick at h
    split at h
    · next hs => cases h; exact .asleep hs rfl
    · next hs =>
      have hs : (tick s).sleeping = false := by simpa using hs
      unfold boundary at h
      split at h
      · next i hi => cases h; exact .interrupt hs i hi rfl
      · next hn =>
        unfold runInstruction at h
        split at h
        · cases h
        · next hf => cases h; exact .fetchFault hs hn hf rfl
        · next w hf =>
          split at h
          · next i hd => exact .ran hs hn w hf i hd h
          · next e hd => cases h; exact .foreign hs hn w hf e hd rfl

end Sys2Proof.Machine
end

