-- ==== Sys2Proof/Tests/Slice0.lean ====
section
/-! SUPPORT. Tests. Expected results come from the vectors of 95_test_vectors.md (V2 to V8), the opcode table or a rule cited. A
`witness_` theorem shows that the hypotheses of the statement of that name can be met, clause by clause. -/

namespace Sys2Proof.Tests

open Sys2Proof Sys2Proof.Machine

/-! ## Helpers -/

/-- The next state of a step that goes on. -/
def nextOf : Result → Option State
  | .next t => some t
  | _ => none

/-- The reset state, with one step in which nothing happens outside the hart. -/
def m : State := { State.reset with inputs := [{}] }

/-- A region that lets user mode read, write and execute everywhere: the vectors presume that a fetch succeeds (R172). -/
def openRegion : PmpRegion := { r := true, w := true, x := true, a := 3, addr := 0x3fffffff }

/-- The same state in user mode, with region 0 open. -/
def u : State := { m with priv := .user, pmp := m.pmp.set 0 openRegion }

/-- One step from `s` with the instruction word `w` placed at its pc. -/
def run (w : Nat) (s : State) : Option State := nextOf (step (s.withFetchWord 32 w))

/-- `s` with one general register set. -/
def withX (r : RegNum) (v : Word) (s : State) : State := writeX r v s

/-- The configuration of V2 changed by `f`. -/
def withCfg (f : Cfg → Cfg) (s : State) : State := { s with cfg := f s.cfg }

/-- What an illegal-instruction trap leaves (the notation ILL of 95_test_vectors.md): pc, mcause, mepc, mtinst, mtval, mstatus. -/
def ill (t : State) : Word × Word × Word × Word × Word × Word :=
  (t.pc, csrRead .mcause t, t.mepc, t.mtinst, t.mtval, csrRead .mstatus t)

/-! ## Decoding: a word of each row, from V8 -/

theorem test_decode_csrrs : decodeTableWord 32 0xf1402573 = some (.csrrs 10 0xf14 0) := by decide
theorem test_decode_csrrw : decodeTableWord 32 0x30529073 = some (.csrrw 0 0x305 5) := by decide
theorem test_decode_csrrc : decodeTableWord 32 0x30433073 = some (.csrrc 0 0x304 6) := by decide
theorem test_decode_csrrwi : decodeTableWord 32 0x340ad073 = some (.csrrwi 0 0x340 21) := by decide
theorem test_decode_csrrsi : decodeTableWord 32 0x340562f3 = some (.csrrsi 5 0x340 10) := by decide
theorem test_decode_csrrci : decodeTableWord 32 0x3401f373 = some (.csrrci 6 0x340 3) := by decide
theorem test_decode_mret : decodeTableWord 32 0x30200073 = some .mret := by decide
theorem test_decode_wfi : decodeTableWord 32 0x10500073 = some .wfi := by decide
/-- Words that are not in scope: `ecall`, a wrong `rd` field, funct3 = 100, another opcode (V8, R196). -/
theorem test_decode_refuses :
    ([0x00000073, 0x30200173, 0x34004073, 0x00438393].map (decodeTableWord 32)) = [none, none, none, none] := by decide
/-- Fewer than four bytes are no instruction (R190). -/
theorem test_decode_truncated : (match decodeBytes [0x73, 0x00, 0x20] with | .error e => some e | .ok _ => none) = some .truncated := by
  decide
/-- The bytes of a word as memory holds them, least significant first (R161). -/
theorem test_bytes : bytesOfWord 0x340562f3 = [0xf3, 0x62, 0x05, 0x34] := by decide

/-! ## Well-formedness: each check refuses an ill-formed term -/

/-- The RV32E configuration of V2. -/
def cfgE : Cfg := { Cfg.reference with extE := true }

theorem smoke_reference : Cfg.reference.wellFormed = true := by decide
theorem smoke_csrrw_rd : (Instr.csrrw 16 0x340 0).wellFormed cfgE = false := by decide
theorem smoke_csrrw_rs1 : (Instr.csrrw 0 0x340 16).wellFormed cfgE = false := by decide
theorem smoke_csrrs_rd : (Instr.csrrs 31 0x340 0).wellFormed cfgE = false := by decide
theorem smoke_csrrs_rs1 : (Instr.csrrs 0 0x340 31).wellFormed cfgE = false := by decide
theorem smoke_csrrc_rd : (Instr.csrrc 16 0x340 15).wellFormed cfgE = false := by decide
theorem smoke_csrrc_rs1 : (Instr.csrrc 15 0x340 16).wellFormed cfgE = false := by decide
theorem smoke_csrrwi_rd : (Instr.csrrwi 16 0x340 0).wellFormed cfgE = false := by decide
theorem smoke_csrrsi_rd : (Instr.csrrsi 16 0x340 0).wellFormed cfgE = false := by decide
theorem smoke_csrrci_rd : (Instr.csrrci 16 0x340 0).wellFormed cfgE = false := by decide
/-- An immediate of 16 or more names no register, so it stays well-formed. -/
theorem smoke_immediate_is_no_register : (Instr.csrrwi 15 0x340 31).wellFormed cfgE = true := by decide
theorem smoke_cfg_zicsr : { Cfg.reference with extZicsr := false }.wellFormed = false := by decide
theorem smoke_cfg_regions : { Cfg.reference with pmpNumRegions := 17 }.wellFormed = false := by decide
theorem smoke_cfg_monitors : { Cfg.reference with hpmNumCnts := 14 }.wellFormed = false := by decide
theorem smoke_cfg_width : { Cfg.reference with hpmCntWidth := 65 }.wellFormed = false := by decide
theorem smoke_cfg_smpmp : { Cfg.reference with pmpNumRegions := 0 }.wellFormed = false := by decide
theorem smoke_cfg_zihpm : { Cfg.reference with hpmNumCnts := 0 }.wellFormed = false := by decide
/-- A digit above 9 is not BCD (R133). -/
theorem smoke_cfg_version : { Cfg.reference with hwVersion := 0x0a020312 }.wellFormed = false := by decide
theorem smoke_cfg_boot : { Cfg.reference with bootAddr := 0x1001 }.wellFormed = false := by decide
theorem smoke_cfg_boot_no_c : { Cfg.reference with extC := false, bootAddr := 0x1002 }.wellFormed = false := by decide
theorem smoke_cfg_priority : { Cfg.reference with irqPriority := [.mei, .msi, .mti] }.wellFormed = false := by decide
theorem smoke_cfg_tor :
    { Cfg.reference with pmpTorModeEn := false, pmpLegalA := { tor := 1 } }.wellFormed = false := by decide
theorem smoke_cfg_na4 :
    { Cfg.reference with pmpNapModeEn := false, pmpLegalA := { na4 := 2 } }.wellFormed = false := by decide
theorem smoke_cfg_napot :
    { Cfg.reference with pmpNapModeEn := false, pmpLegalA := { napot := 3 } }.wellFormed = false := by decide

/-! ## The CSR map: every row of R24 once -/

/-- 99 CSRs with 99 addresses (R24). -/
theorem test_csr_map : Csr.all.length = 99 ∧ (Csr.all.map Csr.addr).Nodup := by decide

/-! ## One step of each instruction (V2 to V4) -/

theorem test_csrrw :
    (run 0x340512f3 (withX 10 0xdeadbeef { m with mscratch := 0x11 })).map (fun t => (t.pc, readX t 5, t.mscratch))
      = some (0x1004, 0x11, 0xdeadbeef) := by decide
theorem test_csrrw_swap :
    (run 0x340f9ff3 (withX 31 0xaaaa5555 { m with mscratch := 0x12345678 })).map (fun t => (readX t 31, t.mscratch))
      = some (0x12345678, 0xaaaa5555) := by decide
theorem test_csrrs :
    (run 0x3402a2f3 (withX 5 0xf0 { m with mscratch := 0x0f })).map (fun t => (readX t 5, t.mscratch))
      = some (0x0f, 0xff) := by decide
/-- A write access by the `rs1` field, although `x5` holds 0 (R221, D7). -/
theorem test_csrrs_read_only :
    (run 0xf112a073 m).map ill = some (0, 2, 0x1000, 0xf112a073, 0, 0x1800) := by decide
theorem test_csrrc :
    (run 0x30433073 (withX 6 0x00010080 { m with mie := 0xffff0888 })).map (fun t => t.mie) = some 0xfffe0808 := by decide
theorem test_csrrwi : (run 0x340ad073 { m with mscratch := 0xffffffff }).map (fun t => t.mscratch) = some 0x15 := by decide
theorem test_csrrsi :
    (run 0x340562f3 { m with mscratch := 21 }).map (fun t => (readX t 5, t.mscratch)) = some (0x15, 0x1f) := by decide
theorem test_csrrci :
    (run 0x3401f373 { m with mscratch := 31 }).map (fun t => (readX t 6, t.mscratch)) = some (0x1f, 0x1c) := by decide
/-- V3 row 4: MPRV is cleared because the new mode is U. -/
theorem test_mret :
    (run 0x30200073 { m with mepc := 0x2468, mstatus := ⟨false, true, .user, true, false⟩ }).map
      (fun t => (t.pc, t.priv, csrRead .mstatus t, t.instret)) = some (0x2468, .user, 0x88, 1) := by decide
/-- V3 row 7: illegal in user mode. -/
theorem test_mret_user :
    (run 0x30200073 { u with mepc := 0x100, mstatus := ⟨true, true, .machine, false, false⟩ }).map ill
      = some (0, 2, 0x1000, 0x30200073, 0, 0x80) := by decide
theorem test_wfi :
    (run 0x10500073 { m with pc := 0x200, mtvec := 0x400 }).map (fun t => (t.pc, t.priv)) = some (0x204, .machine) := by decide
/-- V4 row 4: user mode with TW set. -/
theorem test_wfi_tw :
    (run 0x10500073 { u with pc := 0x200, mtvec := 0x400, mstatus := ⟨false, false, .user, false, true⟩ }).map ill
      = some (0x400, 2, 0x200, 0x10500073, 0, 0x200000) := by decide

/-! ## Fields, counters and protection (sections 2.2 to 2.9) -/

/-- What a CSR reads after a write to it. -/
def after (c : Csr) (v : Word) (s : State) : Option Word :=
  match csrWrite c v s with
  | .ok t => some (csrRead c t)
  | .error _ => none

theorem test_mstatus_write : after .mstatus 0xffffffff m = some 0x00221888 := by decide
theorem test_mstatus_mpp_01 : after .mstatus 0x00000800 m = some 0x00001800 := by decide
theorem test_mepc_no_c : after .mepc 0xffffffff (withCfg (fun c => { c with extC := false }) m) = some 0xfffffffc := by decide
/-- After an illegal write `mtvec` holds the drawn legal value, here 0x00000081 (R51; log 5). -/
theorem test_mtvec_illegal : after .mtvec 0x402 { m with draw := { mtvec := 0x81 } } = some 0x81 := by decide
theorem test_misa : csrRead .misa m = 0x40901104 := by decide
theorem test_misa_e : csrRead .misa (withCfg (fun _ => { extE := true }) m) = 0x40800010 := by decide
theorem test_mxisa : csrRead .mxisa m = 0x100003a1 := by decide
theorem test_fcsr : csrRead .fcsr { u with frm := 5, fflags := 0x13 } = 0xb3 ∧ csrAllowed .fcsr true u = true := by decide
theorem test_cycleh : csrRead .cycleh { m with cycle := 0x0000000100000002 } = 1 := by decide
/-- User mode reads a counter only where `mcounteren` enables it (section 2.5). -/
theorem test_mcounteren :
    csrAllowed .instret false { u with mcounteren := ⟨true, false⟩ } = false
      ∧ csrAllowed .instret false { u with mcounteren := ⟨false, true⟩ } = true := by decide
/-- P6: the write is counted by the old inhibit bit, then the counter stands still (D22). -/
theorem test_csrrwi_inhibit : (run 0x3202d073 { m with instret := 1234 }).map (fun t => (t.instret, t.mcountinhibit)) = some (1235, 5) := by
  decide
theorem test_mhpmevent : after (.mhpmevent 0) 0xffffffff m = some 0x00000ffd := by decide
theorem test_mhpmcounterh : after (.mhpmcounterh 0) 0xffffffff m = some 0xff := by decide
theorem test_mcountinhibit : after .mcountinhibit 0xffffffff m = some 0x0000fffd := by decide
theorem test_pmpcfg :
    after (.pmpcfg 0) 0xffffffff (withCfg (fun c => { c with pmpNumRegions := 2 }) m) = some 0x00009f9f := by decide
/-- The state `m` with region 1 as given. -/
def withRegion1 (p : PmpRegion) : State := { m with pmp := m.pmp.set 1 p }
theorem test_pmpaddr_tor_neighbour : after (.pmpaddr 0) 0x1234 (withRegion1 { l := true, a := 1 }) = some 0 := by decide
/-- P4: a NAPOT field of 16 trailing ones matches 0x80000000 to 0x8007ffff and no address outside (R171). -/
theorem test_napot :
    ([0x20000000, 0x2001ffff, 0x20020000, 0x1fffffff].map fun w => napotMatches 0x2000ffff w) = [true, true, false, false] := by
  decide
/-- `time`, `pmpcfg4` and `pmpaddr16` are not implemented (section 2.7). -/
theorem test_unlisted : ([0xc01, 0x3a4, 0x3c0].map fun a => csrCheck a false m) = [false, false, false] := by decide

/-! ## Interrupts (V5) -/

/-- A hart at the pc of V5 with every source enabled and the request lines `l`. -/
def irqState (l : IrqLines) (mtvec : Word) (p : Priv) (mie mpie : Bool) : State :=
  { m with
    pc := 0x1234
    mtvec := mtvec
    priv := p
    mie := 0xffff0888
    mstatus := ⟨mie, mpie, .user, false, false⟩
    inputs := [{ irq := l, takeIrq := true }] }

/-- V5 row 2. -/
theorem test_irq_mti :
    (nextOf (step (irqState { mti := true } 0x401 .machine true false))).map
      (fun t => (t.pc, csrRead .mcause t, t.mepc, csrRead .mstatus t)) = some (0x41c, 0x80000007, 0x1234, 0x1880) := by decide
/-- V5 row 7: taken in user mode although MIE is 0. -/
theorem test_irq_firq3_user :
    (nextOf (step (irqState { firq := 8 } 0x481 .user false true))).map
      (fun t => (t.pc, csrRead .mcause t, t.mepc, csrRead .mstatus t)) = some (0x4cc, 0x80000013, 0x1234, 0) := by decide
/-- Not takeable in machine mode with MIE 0 (R277). -/
theorem test_irq_disabled : interruptTaken (tick (irqState { mti := true } 0x401 .machine false false)) = none := by decide

/-! ## Witnesses: states and operands that meet the hypotheses of each statement -/

theorem running_m : Running m := ⟨rfl, rfl⟩
theorem running_u : Running u := ⟨rfl, rfl⟩

/-- `s` with an instruction word at its pc. -/
def placed (w : Nat) (s : State) : State := s.withFetchWord 32 w

/-- `s` asleep, with the input `d` scheduled. -/
def asleep (d : StepInput) (s : State) : State := { s with sleeping := true, inputs := [d] }

/-- The state of `u` in a step that is a reset, with a register and a byte of memory that hold anything after it. -/
def resetting : State := { u with inputs := [{ reset := some { regs := Vector.replicate 32 7, bytes := [(0x1000, 3)] } }] }

theorem witness_EncodeOfDecode : decode 0x340562f3 = .ok (.csrrsi 5 0x340 10) := rfl

theorem witness_StepRunsDecodedInstruction :
    let s := placed 0x340562f3 u
    Running s ∧ (nextInput s).reset = none
      ∧ s.readByte s.pc.toNat = some 0xf3 ∧ s.readByte (s.pc + 1).toNat = some 0x62
      ∧ s.readByte (s.pc + 2).toNat = some 0x05 ∧ s.readByte (s.pc + 2 + 1).toNat = some 0x34
      ∧ decodeBytes [0xf3, 0x62, 0x05, 0x34] = .ok (.csrrsi 5 0x340 10)
      ∧ pmpAllows .fetch s.pc 2 s = true ∧ pmpAllows .fetch s.pc 4 s = true
      ∧ staysAsleep (nextInput s) s = false ∧ interruptTaken (tick s) = none :=
  ⟨⟨rfl, rfl⟩, rfl, by decide, by decide, by decide, by decide, rfl, by decide, by decide, by decide, by decide⟩

theorem witness_StepTakesInterrupt :
    let s := irqState { mti := true } 0x401 .machine true false
    Running s ∧ (nextInput s).reset = none ∧ staysAsleep (nextInput s) s = false ∧ interruptTaken (tick s) = some .mti :=
  ⟨⟨rfl, rfl⟩, rfl, by decide, by decide⟩

/-- A user-mode hart at 0x1002 whose region 0 lets it execute the four bytes at 0x1000 only: the first half of a 32-bit instruction
passes the PMP check, the whole does not (R172). -/
def straddling : State :=
  placed 0x340562f3 { m with priv := .user, pc := 0x1002, pmp := m.pmp.set 0 { x := true, a := 2, addr := 0x400 } }

/-- User mode with every region OFF, and an instruction that lies half in a region (R172). -/
theorem witness_DeniedFetchTakesAccessFault :
    (let s : State := { m with priv := .user };
      Running s ∧ (nextInput s).reset = none ∧ staysAsleep (nextInput s) s = false ∧ interruptTaken (tick s) = none
        ∧ pmpAllows .fetch s.pc 2 (tick s) = false)
    ∧ Running straddling ∧ (nextInput straddling).reset = none ∧ staysAsleep (nextInput straddling) straddling = false
      ∧ interruptTaken (tick straddling) = none ∧ pmpAllows .fetch straddling.pc 2 (tick straddling) = true
      ∧ straddling.readByte straddling.pc.toNat = some 0xf3 ∧ straddling.readByte (straddling.pc + 1).toNat = some 0x62
      ∧ straddling.readByte (straddling.pc + 2).toNat = some 0x05 ∧ straddling.readByte (straddling.pc + 2 + 1).toNat = some 0x34
      ∧ (0xf3 : Byte).extractLsb' 0 2 = 0b11#2 ∧ pmpAllows .fetch straddling.pc 4 (tick straddling) = false :=
  ⟨⟨⟨rfl, rfl⟩, rfl, by decide, by decide, by decide⟩, ⟨rfl, rfl⟩, rfl, by decide, by decide, by decide, by decide, by decide,
    by decide, by decide, rfl, by decide⟩

theorem witness_SleepingHartIdles :
    let s := asleep { sleepOn := true, cycles := 7 } m
    Running s ∧ (nextInput s).reset = none ∧ staysAsleep (nextInput s) s = true :=
  ⟨⟨rfl, rfl⟩, rfl, by decide⟩

/-- A user-mode hart about to run the word `w` with the effects `f`, in a region that it may read and execute but not write. -/
def foreignState (w : Nat) (f : ForeignEffect) : State :=
  placed w { u with pmp := m.pmp.set 0 { openRegion with w := false }, inputs := [{ foreign := f }] }

/-- The word of `addi x7, x7, 4` (V8) without an exception, the word of `ecall` with its exception, and a word that makes a load,
which the PMP allows, and then a store, which it denies. -/
theorem witness_OutOfScopeWordKeepsMachineRegisters :
    (let s := foreignState 0x00438393 { accesses := [.load 0x2000 4] };
      Running s ∧ (nextInput s).reset = none ∧ staysAsleep (nextInput s) s = false ∧ interruptTaken (tick s) = none
        ∧ fetch (tick s) = .word 0x00438393 ∧ decode 0x00438393 = .error .otherOpcode
        ∧ (nextInput s).foreign.exception = none
        ∧ ∀ a ∈ (nextInput s).foreign.accesses, MemAccess.denied (tick s) a = false)
    ∧ (let s := foreignState 0x00000073 { exception := some .ecallFromU };
      Running s ∧ (nextInput s).reset = none ∧ staysAsleep (nextInput s) s = false ∧ interruptTaken (tick s) = none
        ∧ fetch (tick s) = .word 0x00000073 ∧ decode 0x00000073 = .error .otherFunct12
        ∧ (nextInput s).foreign.exception = some .ecallFromU)
    ∧ (let s := foreignState 0x00438393 { accesses := [.load 0x2000 4, .store 0x2000 [1, 2]] };
      (nextInput s).foreign.exception = none
        ∧ (nextInput s).foreign.accesses = [MemAccess.load 0x2000 4] ++ MemAccess.store 0x2000 [1, 2] :: []
        ∧ (∀ b ∈ [MemAccess.load 0x2000 4], MemAccess.denied (tick s) b = false)
        ∧ MemAccess.denied (tick s) (.store 0x2000 [1, 2]) = true) :=
  ⟨⟨⟨rfl, rfl⟩, rfl, by decide, by decide, by decide, rfl, rfl, by decide⟩,
    ⟨⟨rfl, rfl⟩, rfl, by decide, by decide, by decide, rfl, rfl⟩, rfl, rfl, by decide, by decide⟩

/-- The denied store raises the store access fault, code 7, and stores nothing (R174). -/
theorem test_store_denied :
    (nextOf (step (foreignState 0x00438393 { accesses := [.store 0x2000 [1, 2]], nextPc := 0x1004 }))).map
      (fun t => (t.pc, csrRead .mcause t, t.mtinst, t.readByte 0x2000)) = some (0, 7, 0x00438393, none) := by decide

/-- DIRECT mode, and VECTORED mode at a base whose bits above bit 6 are all ones. -/
theorem witness_TrapTargetAddress : mtvecLegal 0x12345678 = true ∧ mtvecLegal 0xffffff81 = true := by decide

theorem witness_InterruptTakenIffTakeable :
    let s := tick (irqState { mti := true, firq := 0x8000 } 0x401 .user false false)
    s.cfg.wellFormed = true ∧ interruptTaken s = some (.firq 15) ∧ s.draw.takeIrq = true ∧ CanInterrupt s .mti :=
  ⟨by decide, by decide, rfl, .inl rfl, by decide, by decide⟩

/-- From user mode, and from machine mode without user mode. -/
theorem witness_TrapThenReturnResumes :
    (u.cfg.alignedPc 0x1002 = true ∧ (u.cfg.extU = false → u.priv = .machine))
    ∧ (let s := withCfg (fun c => { c with extU := false, extC := false }) m;
      s.cfg.alignedPc s.pc = true ∧ (s.cfg.extU = false → s.priv = .machine)) := by decide

theorem witness_CsrrwCompletes :
    Running u ∧ (Instr.csrrw 31 (Csr.addr .fcsr) 31).wellFormed u.cfg = true ∧ CheckPasses (Csr.addr .fcsr) true u
      ∧ isTriggerCsr .fcsr = false ∧ isDebugCsr .fcsr = false :=
  ⟨running_u, by decide⟩

/-- The pure read of a read-only CSR and the write access of a writable one. -/
theorem witness_CsrrsCompletes :
    Running m ∧ (Instr.csrrs 5 (Csr.addr .marchid) 0).wellFormed m.cfg = true ∧ CheckPasses (Csr.addr .marchid) false m
      ∧ (Instr.csrrs 5 (Csr.addr .minstret) 1).wellFormed m.cfg = true ∧ (1 : RegNum) ≠ 0
      ∧ CheckPasses (Csr.addr .minstret) true m ∧ isTriggerCsr .minstret = false ∧ isDebugCsr .minstret = false :=
  ⟨running_m, by decide, by decide, by decide, by decide, by decide, by decide, by decide⟩

theorem witness_CsrrcCompletes :
    Running m ∧ (Instr.csrrc 5 (Csr.addr .marchid) 0).wellFormed m.cfg = true ∧ CheckPasses (Csr.addr .marchid) false m
      ∧ (Instr.csrrc 5 (Csr.addr .minstret) 31).wellFormed m.cfg = true ∧ (31 : RegNum) ≠ 0
      ∧ CheckPasses (Csr.addr .minstret) true m ∧ isTriggerCsr .minstret = false ∧ isDebugCsr .minstret = false :=
  ⟨running_m, by decide, by decide, by decide, by decide, by decide, by decide, by decide⟩

theorem witness_CsrrwiCompletes :
    Running m ∧ (Instr.csrrwi 0 (Csr.addr .mtvec) 31).wellFormed m.cfg = true ∧ CheckPasses (Csr.addr .mtvec) true m
      ∧ isTriggerCsr .mtvec = false ∧ isDebugCsr .mtvec = false :=
  ⟨running_m, by decide⟩

theorem witness_CsrrsiCompletes :
    Running m ∧ (Instr.csrrsi 5 (Csr.addr .marchid) 0).wellFormed m.cfg = true ∧ CheckPasses (Csr.addr .marchid) false m
      ∧ (Instr.csrrsi 5 (Csr.addr .mie) 1).wellFormed m.cfg = true ∧ (1 : BitVec 5) ≠ 0
      ∧ CheckPasses (Csr.addr .mie) true m ∧ isTriggerCsr .mie = false ∧ isDebugCsr .mie = false :=
  ⟨running_m, by decide, by decide, by decide, by decide, by decide, by decide, by decide⟩

theorem witness_CsrrciCompletes :
    Running m ∧ (Instr.csrrci 5 (Csr.addr .marchid) 0).wellFormed m.cfg = true ∧ CheckPasses (Csr.addr .marchid) false m
      ∧ (Instr.csrrci 5 (Csr.addr .mie) 31).wellFormed m.cfg = true ∧ (31 : BitVec 5) ≠ 0
      ∧ CheckPasses (Csr.addr .mie) true m ∧ isTriggerCsr .mie = false ∧ isDebugCsr .mie = false :=
  ⟨running_m, by decide, by decide, by decide, by decide, by decide, by decide, by decide⟩

theorem witness_MretCompletes : Running m ∧ m.priv = .machine := ⟨running_m, rfl⟩

/-- Machine mode with TW set, and user mode with TW clear. -/
theorem witness_WfiCompletes :
    (let s : State := { m with mstatus := ⟨false, false, .user, false, true⟩ };
      Running s ∧ (s.priv = .machine ∨ s.mstatus.tw = false))
    ∧ (Running u ∧ (u.priv = .machine ∨ u.mstatus.tw = false)) :=
  ⟨⟨⟨rfl, rfl⟩, .inl rfl⟩, running_u, .inr rfl⟩

theorem witness_PrivilegedInstructionsTrapInUserMode :
    let s : State := { u with mstatus := ⟨false, false, .user, false, true⟩ }
    Running s ∧ s.priv = .user ∧ s.mstatus.tw = true :=
  ⟨⟨rfl, rfl⟩, rfl, rfl⟩

theorem witness_InstructionsLeaveMemory : ∃ t, exec (.csrrwi 5 0x340 3) m = .next t := ⟨_, rfl⟩

/-- An instruction that changes its `rd`, and one that changes no register. -/
theorem witness_InstructionsWriteOnlyRd :
    (∃ t, exec (.csrrwi 5 0x301 3) m = .next t ∧ readX t 5 ≠ readX m 5) ∧ ∃ t, exec .mret m = .next t :=
  ⟨⟨_, rfl, by decide⟩, _, rfl⟩

/-- A completing instruction, a trapping one, the writes of the two words of the counter, and one that traps. -/
theorem witness_EveryInstructionIsCounted :
    (∃ t, exec .mret m = .next t) ∧ (∃ t, exec .mret u = .next t) ∧ (∃ t, exec (.csrrwi 0 0xb02 7) m = .next t)
      ∧ (∃ t, exec (.csrrwi 0 0xb82 7) m = .next t) ∧ ∃ t, exec (.csrrwi 0 0xb02 7) u = .next t :=
  ⟨⟨_, rfl⟩, ⟨_, rfl⟩, ⟨_, rfl⟩, ⟨_, rfl⟩, _, rfl⟩

/-- `m` with the trigger module. -/
def trig : State := withCfg (fun c => { c with extSdtrig := true }) m

theorem witness_RefusedFormsStopByName :
    (let s := withCfg (fun c => { c with extE := true }) m;
      Running s ∧ (Instr.csrrw 16 0x340 0).wellFormed s.cfg = false)
    ∧ (Running trig ∧ (Instr.csrrw 0 (Csr.addr .tdata1) 0).wellFormed trig.cfg = true
      ∧ Instr.access (.csrrw 0 (Csr.addr .tdata1) 0) = some (Csr.addr .tdata1, true) ∧ isTriggerCsr .tdata1 = true
      ∧ csrAllowed .tdata1 true trig = true)
    ∧ (let s : State := { m with debugMode := true };
      s.debugMode = true)
    ∧ (let s := withCfg (fun c => { c with extZicsr := false }) m;
      s.debugMode = false ∧ s.cfg.extZicsr = false) :=
  ⟨⟨⟨rfl, rfl⟩, by decide⟩, ⟨⟨rfl, rfl⟩, by decide⟩, rfl, rfl, rfl⟩

/-- The addresses next to the listed ones: `time`, `pmpcfg4`, `pmpaddr16`. -/
theorem witness_UnlistedCsrTraps :
    Running m ∧ (Instr.csrrs 5 0xc01 0).wellFormed m.cfg = true ∧ Instr.access (.csrrs 5 0xc01 0) = some (0xc01, false)
      ∧ ((0xc01 : CsrAddr) ∉ csrTable.map fun r => r.1) ∧ ((0x3a4 : CsrAddr) ∉ csrTable.map fun r => r.1)
      ∧ ((0x3c0 : CsrAddr) ∉ csrTable.map fun r => r.1) :=
  ⟨running_m, by decide⟩

/-- A machine with Zicsr and nothing else. -/
def bare : State := withCfg (fun _ => {}) m

theorem witness_DisabledCsrTraps :
    Running bare ∧ (Instr.csrrw 5 0x001 0).wellFormed bare.cfg = true
      ∧ Instr.access (.csrrw 5 0x001 0) = some (0x001, true)
      ∧ ((0x003 : CsrAddr) ∈ [0x001, 0x002, 0x003] ∧ bare.cfg.extZfinx = false)
      ∧ ((0x31a : CsrAddr) ∈ [0x306, 0x30a, 0x31a] ∧ bare.cfg.extU = false)
      ∧ (((0x3a0 : CsrAddr) ≤ 0x3a3 ∧ (0x3a3 : CsrAddr) ≤ 0x3a3) ∧ ((0x3b0 : CsrAddr) ≤ 0x3bf ∧ (0x3bf : CsrAddr) ≤ 0x3bf)
        ∧ bare.cfg.extSmpmp = false)
      ∧ ((0xc82 : CsrAddr) ∈ [0xb00, 0xb02, 0xb80, 0xb82, 0xc00, 0xc02, 0xc80, 0xc82] ∧ bare.cfg.extZicntr = false)
      ∧ (((0x323 : CsrAddr) ≤ 0x32f ∧ (0x32f : CsrAddr) ≤ 0x32f) ∧ ((0xb03 : CsrAddr) ≤ 0xb0f ∧ (0xb0f : CsrAddr) ≤ 0xb0f)
        ∧ ((0xb83 : CsrAddr) ≤ 0xb8f ∧ (0xb8f : CsrAddr) ≤ 0xb8f) ∧ bare.cfg.extZihpm = false)
      ∧ ((0x7a4 : CsrAddr) ∈ [0x7a0, 0x7a1, 0x7a2, 0x7a4] ∧ bare.cfg.extSdtrig = false)
      ∧ (0x7b0 : CsrAddr) ∈ [0x7b0, 0x7b1, 0x7b2] ∧ (0x7b2 : CsrAddr) ∈ [0x7b0, 0x7b1, 0x7b2] :=
  ⟨⟨rfl, rfl⟩, by decide⟩

theorem witness_MachineCsrTrapsInUserMode :
    Running u ∧ (Instr.csrrs 5 (Csr.addr .mstatus) 0).wellFormed u.cfg = true
      ∧ Instr.access (.csrrs 5 (Csr.addr .mstatus) 0) = some (Csr.addr .mstatus, false) ∧ u.priv = .user
      ∧ (Csr.addr .mstatus).extractLsb' 8 2 = 0b11#2 ∧ (Csr.addr .mxisa).extractLsb' 8 2 = 0b11#2
      ∧ (Csr.addr .dcsr).extractLsb' 8 2 = 0b11#2 :=
  ⟨running_u, by decide⟩

theorem witness_ReadOnlyCsrWriteTraps :
    Running m ∧ (Instr.csrrw 0 (Csr.addr .cycle) 0).wellFormed m.cfg = true
      ∧ Instr.access (.csrrw 0 (Csr.addr .cycle) 0) = some (Csr.addr .cycle, true)
      ∧ (Csr.addr .cycle).extractLsb' 10 2 = 0b11#2 ∧ (Csr.addr .mxisa).extractLsb' 10 2 = 0b11#2
      ∧ ¬ CheckPasses 0xc00 true m ∧ ¬ CheckPasses 0xc00 false u ∧ ¬ CheckPasses 0xc01 false m ∧ ¬ CheckPasses 0x300 false u
      ∧ CheckPasses 0x340 true m ∧ CheckPasses 0x003 true u ∧ CheckPasses 0xf11 false m :=
  ⟨running_m, by decide, by decide, by decide, by decide, by decide, by decide, by decide, by decide, by decide,
    by decide, by decide⟩

/-- The first `pmpcfg`, `pmpaddr` and monitor past the configured count of V2, and a CSR that ignores writes always. -/
theorem witness_WriteIgnoringCsrsKeepEverything :
    Running m ∧ (Instr.csrrw 5 (Csr.addr (.pmpcfg 1)) 0).wellFormed m.cfg = true
      ∧ Instr.access (.csrrw 5 (Csr.addr (.pmpcfg 1)) 0) = some (Csr.addr (.pmpcfg 1), true)
      ∧ Instr.dest (.csrrw 5 (Csr.addr (.pmpcfg 1)) 0) = some 5 ∧ m.priv = .machine
      ∧ (Csr.existsIn m.cfg (.pmpcfg 1) = true ∧ ignoresWrites m.cfg (.pmpcfg 1) = true)
      ∧ (Csr.existsIn m.cfg (.pmpaddr 4) = true ∧ ignoresWrites m.cfg (.pmpaddr 4) = true)
      ∧ (Csr.existsIn m.cfg (.mhpmevent 2) = true ∧ ignoresWrites m.cfg (.mhpmevent 2) = true)
      ∧ (Csr.existsIn m.cfg .mcause = true ∧ ignoresWrites m.cfg .mcause = true) :=
  ⟨running_m, by decide⟩

theorem witness_SurplusCsrsReadZero :
    m.cfg.pmpNumRegions ≤ 4 * (1 : Fin 4).val ∧ m.cfg.pmpNumRegions ≤ (4 : Fin 16).val
      ∧ m.cfg.hpmNumCnts ≤ (2 : Fin 13).val := by decide

/-- At the granularity the spec describes, and at another one for a pair of CSRs that is not a `pmpcfg` and a `pmpaddr`. -/
theorem witness_CsrWriteTouchesOnlyItsStorage :
    ((∃ t, csrWrite (.pmpcfg 0) 0x9f m = .ok t) ∧ sharesStorage (.pmpcfg 0) (.pmpaddr 0) = false
      ∧ m.cfg.pmpMinGranularity = 4)
    ∧ (∃ t, csrWrite .mcycle 5 (withCfg (fun c => { c with pmpMinGranularity := 8 }) m) = .ok t)
      ∧ sharesStorage .mcycle .cycleh = false ∧ ∀ k i, ¬ (Csr.mcycle = .pmpcfg k ∧ Csr.cycleh = .pmpaddr i) :=
  ⟨⟨⟨_, rfl⟩, rfl, rfl⟩, ⟨_, rfl⟩, rfl, fun _ _ h => by cases h.1⟩

theorem witness_MstatusWriteIsLegalised : ∃ t, csrWrite .mstatus 0x1800 m = .ok t := ⟨_, rfl⟩

/-- A legal value of each mode, and a write of one that is not legal. -/
theorem witness_MtvecWriteLeavesLegalValue :
    (∃ t, csrWrite .mtvec 0x405 m = .ok t) ∧ (0xfffffffc : Word).extractLsb' 0 2 = 0b00#2
      ∧ (0xffffff81 : Word).extractLsb' 0 2 = 0b01#2 ∧ (0xffffff81 : Word).extractLsb' 2 5 = 0 :=
  ⟨⟨_, rfl⟩, by decide⟩

theorem witness_MepcHardwiredBits : ∃ t, csrWrite .mepc 0xffffffff m = .ok t := ⟨_, rfl⟩

theorem witness_MaskedCsrWrites :
    (∃ t, csrWrite .mscratch 0xffffffff m = .ok t) ∧ (∃ t, csrWrite .mie 0xffffffff m = .ok t)
      ∧ (∃ t, csrWrite .mcounteren 0xffffffff m = .ok t) ∧ ∃ t, csrWrite .mcountinhibit 0xffffffff m = .ok t :=
  ⟨⟨_, rfl⟩, ⟨_, rfl⟩, ⟨_, rfl⟩, _, rfl⟩

theorem witness_FcsrIsViewOfFlagsAndMode :
    (∃ t, csrWrite .fcsr 0xffffffff m = .ok t) ∧ (∃ t, csrWrite .fflags 0xffffffff m = .ok t)
      ∧ ∃ t, csrWrite .frm 0xffffffff m = .ok t :=
  ⟨⟨_, rfl⟩, ⟨_, rfl⟩, _, rfl⟩

/-- A read of each word from user mode, and a write access. -/
theorem witness_CycleIsReadOnlyShadow :
    Running u ∧ (Instr.csrrs 5 0xc00 0).wellFormed u.cfg = true ∧ u.cfg.extZicntr = true
      ∧ Instr.dest (.csrrs 5 0xc00 0) = some 5 ∧ Instr.access (.csrrs 5 0xc00 0) = some (0xc00, false)
      ∧ Instr.access (.csrrs 5 0xc80 0) = some (0xc80, false) ∧ Instr.access (.csrrw 5 0xc80 0) = some (0xc80, true) :=
  ⟨running_u, by decide⟩

theorem witness_InstretIsReadOnlyShadow :
    Running u ∧ (Instr.csrrs 5 0xc02 0).wellFormed u.cfg = true ∧ u.cfg.extZicntr = true
      ∧ Instr.dest (.csrrs 5 0xc02 0) = some 5 ∧ Instr.access (.csrrs 5 0xc02 0) = some (0xc02, false)
      ∧ Instr.access (.csrrs 5 0xc82 0) = some (0xc82, false) ∧ Instr.access (.csrrw 5 0xc82 0) = some (0xc82, true) :=
  ⟨running_u, by decide⟩

theorem witness_McycleWords :
    (Running m ∧ (Instr.csrrw 5 0xb00 6).wellFormed m.cfg = true ∧ m.cfg.extZicntr = true ∧ m.priv = .machine)
      ∧ Running u ∧ (Instr.csrrw 5 0xb00 6).wellFormed u.cfg = true ∧ u.cfg.extZicntr = true ∧ u.priv = .user :=
  ⟨⟨running_m, by decide⟩, running_u, by decide⟩

/-- A hart with events selected that ran for seven cycles, awake, asleep, and with every counter inhibited; the first monitor counts
CY alone, the second CY and IR. -/
theorem witness_InhibitedCountersStandStill :
    let d : StepInput := { sleepOn := true, cycles := 7, hpm := Vector.replicate 13 (2 ^ 40 - 1) }
    let s : State :=
      { m with
        cycle := 0xfffffffffffffffe
        hpm := (m.hpm.set 0 { event := 1, cnt := 5 }).set 1 { event := 5, cnt := 5 }
        inputs := [d] }
    ((tick s).cycle, ((tick s).monitor 0).cnt, ((tick s).monitor 1).cnt) = (5, 4, 4)
      ∧ (let z := tick { s with sleeping := true };
        (z.cycle, (z.monitor 0).cnt, (z.monitor 1).cnt) = (0xfffffffffffffffe, 5, 4))
      ∧ (let z := tick { s with mcountinhibit := 0xfffd };
        (z.cycle, (z.monitor 0).cnt, (z.monitor 1).cnt) = (0xfffffffffffffffe, 5, 5)) := by decide

/-- The last real monitor and the first that is not, of V2. -/
theorem witness_HpmCounterWidth :
    (∃ t, csrWrite (.mhpmcounter 1) 0xffffffff m = .ok t) ∧ (∃ t, csrWrite (.mhpmcounterh 1) 0xffffffff m = .ok t)
      ∧ (1 : Fin 13).val < m.cfg.hpmNumCnts ∧ (∃ t, csrWrite (.mhpmcounter 2) 0xffffffff m = .ok t)
      ∧ m.cfg.hpmNumCnts ≤ (2 : Fin 13).val :=
  ⟨⟨_, rfl⟩, ⟨_, rfl⟩, by decide, ⟨_, rfl⟩, by decide⟩

theorem witness_HpmEventSelectorMask : ∃ t, csrWrite (.mhpmevent 1) 0xffffffff m = .ok t := ⟨_, rfl⟩

/-- The bytes of the last real region of V2 and of the first that is not, a byte of a region as it reads (R101, R102), and
configurations without the modes of R104. -/
theorem witness_PmpcfgWriteByRegion :
    (∃ t, csrWrite (.pmpcfg 0) 0xffffffff m = .ok t) ∧ 3 / 4 = (0 : Fin 4).val ∧ (m.region 3).l = false
      ∧ (∃ t, csrWrite (.pmpcfg 1) 0xffffffff m = .ok t) ∧ m.cfg.pmpNumRegions ≤ 4 * (1 : Fin 4).val + 0
      ∧ 4 * (0 : Fin 4).val + 3 < m.cfg.pmpNumRegions
      ∧ csrRead (.pmpcfg 0) (withRegion1 { l := true, a := 2, x := true, r := true }) = 0x00009500
      ∧ after (.pmpcfg 0) 0x18100800 (withCfg (fun c => { c with pmpTorModeEn := false, pmpNapModeEn := false }) m) = some 0
      ∧ after (.pmpcfg 0) 0x18100800 (withCfg (fun c => { c with pmpTorModeEn := false, pmpLegalA := { tor := 3 } }) m)
        = some 0x18101800 :=
  ⟨⟨_, rfl⟩, rfl, rfl, ⟨_, rfl⟩, by decide⟩

theorem witness_PmpaddrWriteByRegion :
    m.cfg.pmpMinGranularity = 4 ∧ (3 : Fin 16).val < m.cfg.pmpNumRegions ∧ ∃ t, csrWrite (.pmpaddr 3) 0xffffffff m = .ok t :=
  ⟨rfl, by decide, _, rfl⟩

/-- Region 1 locked in TOR mode, and a step that tries to write `pmpaddr0` below it; and a step that is a reset. -/
theorem witness_LockedRegionsNeverChange :
    let s := placed 0x3b059073 (withRegion1 { l := true, a := 1, x := true, addr := 0x3fffffff })
    ((nextOf (step s)).isSome = true ∧ (nextInput s).reset = none ∧ s.locked 1 ∧ s.lockedTor (0 + 1))
      ∧ (nextOf (step resetting)).isSome = true ∧ (nextInput resetting).reset.isSome = true := by decide

/-- The granularity of V2, and the three matching modes at the ends of their ranges: TOR from 0x1000 below 0x2000, NA4 at 0x2000,
NAPOT of 16 bytes at 0x3000; a four-byte access that a region takes in only in part fails in machine mode too (R171, R172). -/
theorem witness_PmpFetchCheckByMode :
    (let s : State :=
      { m with
        pmp := (((m.pmp.set 0 { addr := 0x400 }).set 1 { a := 1, addr := 0x800 }).set 2 { a := 2, addr := 0x800, r := true }).set 3
          { a := 3, addr := 0xc01, l := true } };
      s.cfg.pmpMinGranularity = 4
        ∧ ([0xfff, 0x1000, 0x1fff, 0x2000].map (regionMatches s 1)) = [false, true, true, false]
        ∧ ([0x1fff, 0x2000, 0x2003, 0x2004].map (regionMatches s 2)) = [false, true, true, false]
        ∧ ([0x2fff, 0x3000, 0x300f, 0x3010].map (regionMatches s 3)) = [false, true, true, false]
        ∧ pmpAllows .load 0x1ffe 4 s = false ∧ pmpAllows .load 0x2000 4 s = true ∧ pmpAllows .load 0x3000 4 s = false)
    ∧ (let s : State := { m with priv := .user };
      s.priv = .user ∧ 0 < s.cfg.pmpNumRegions ∧ ∀ i, i < s.cfg.pmpNumRegions → (s.region i).a = 0)
    ∧ m.priv = .machine ∧ (0xfffffffc : Word).extractLsb' 0 2 = 0b00#2
      ∧ ∀ i, i < m.cfg.pmpNumRegions → (m.region i).l = false := by decide

theorem region_placed (w : Nat) (i : Nat) : (placed w m).region i = {} := by
  by_cases h : i < 16
  · simp [placed, State.withFetchWord, placeWord, m, State.reset, State.resetOf, State.region, h]
  · exact region_past _ (by omega)

theorem monitor_placed (w : Nat) (n : Nat) : (placed w m).monitor n = {} := by
  by_cases h : n < 13
  · simp [placed, State.withFetchWord, placeWord, m, State.reset, State.resetOf, State.monitor, h]
  · exact monitor_past _ (by omega)

/-- A legal state in which `csrrsi x5, mscratch, 10` is about to run. -/
theorem witness_StepKeepsLegal :
    Legal (placed 0x340562f3 m) ∧ (nextOf (step (placed 0x340562f3 m))).isSome = true :=
  ⟨{ cfg := by decide
     notDebug := rfl
     pc := by decide
     mepc := by decide
     user := fun h => absurd h (by decide)
     regs := fun r h => absurd h (by simp [RegNum.existsIn, placed, State.withFetchWord, placeWord, m, State.reset,
       State.resetOf, Cfg.reference])
     fpu := fun h => absurd h (by decide)
     mie := by decide
     mtvec := by decide
     inhibit := by decide
     counters := fun h => absurd h (by decide)
     pmpSurplus := fun i _ => region_placed _ i
     pmpModes := fun i => by rw [region_placed]; decide
     hpm := fun n => by
       rw [monitor_placed]
       exact ⟨fun _ => rfl, by decide, by decide⟩
     memory := by decide },
   by decide⟩

theorem witness_ResetIsLegal : Cfg.reference.wellFormed = true := by decide

theorem witness_ConfigurationIsFixed : (nextOf (step (placed 0x340562f3 m))).isSome = true := by decide

/-- `mret` right after reset enters user mode; in user mode `mret` traps; a reset leaves user mode. -/
theorem witness_ModeChangesOnlyByMretAndTrap :
    ((run 0x30200073 m).map fun t => t.priv) = some .user ∧ m.priv = .machine
      ∧ ((run 0x30200073 u).map fun t => t.priv) = some .machine ∧ u.priv = .user
      ∧ (nextInput resetting).reset.isSome = true
      ∧ ((nextOf (step resetting)).map fun t => (t.priv, t.pc, readX t 0, readX t 31, t.readByte 0x1000))
        = some (.machine, 0x1000, 0, 7, some 3) := by decide

/-- A user-mode step that writes the rounding mode (P5). -/
theorem witness_UserModeCannotChangeMachineRegisters :
    ((run 0x0022d073 u).map fun t => (t.priv, t.frm)) = some (.user, 5) ∧ u.priv = .user := by decide

/-- Two user-mode states with different `mscratch`, `mtvec` and `mie`, and an instruction that reads `fcsr`. -/
theorem witness_UserModeSeesNoMachineRegister :
    SameUserView u { u with mscratch := 7, mtvec := 0x400, mie := 0x80 }
      ∧ (nextOf (exec (.csrrs 5 0x003 0) u)).map (fun t => t.priv) = some .user :=
  ⟨⟨rfl, rfl, rfl, ⟨rfl, rfl⟩, rfl, rfl, rfl, rfl, rfl, rfl, rfl, rfl⟩, by decide⟩

theorem witness_ResetCsrValues :
    Cfg.reference.extU = true ∧ Cfg.reference.pmpMinGranularity = 4 ∧ Running resetting
      ∧ (nextInput resetting).reset = some { regs := Vector.replicate 32 7, bytes := [(0x1000, 3)] } :=
  ⟨rfl, rfl, ⟨rfl, rfl⟩, rfl⟩

end Sys2Proof.Tests
end

section
/-! PROOFS. The legal states (O54): one lemma for each operation of the machine, that it keeps a legal state legal. -/

namespace Sys2Proof.Machine

/-! ### Aligned instruction addresses (10_state.md R21, R62) -/

/-- Clearing the hardwired bits aligns an address. -/
theorem alignedPc_alignPc (c : Cfg) (a : Word) : c.alignedPc (alignPc c a) = true := by
  cases hc : c.extC <;> simp [Cfg.alignedPc, alignPc, pcMask, hc]

/-- An address whose bits 1:0 are 0 is aligned with and without the C extension. -/
theorem alignedPc_of_lowBits {c : Cfg} {a : Word} (h0 : a.getLsbD 0 = false) (h1 : a.getLsbD 1 = false) :
    c.alignedPc a = true := by
  unfold Cfg.alignedPc
  rw [h0, h1]
  simp

/-- The next instruction is as aligned as this one. -/
theorem alignedPc_add_four (c : Cfg) (a : Word) : c.alignedPc (a + 4) = c.alignedPc a := by
  simp [Cfg.alignedPc, BitVec.getElem_add, BitVec.carry_succ]

/-- A trap goes to an aligned address: the base and the offset in the table are multiples of 4 (R50, R52). -/
theorem alignedPc_trapTarget (c : Cfg) (s : State) (interrupt : Bool) (code : BitVec 5) :
    c.alignedPc (trapTarget s interrupt code) = true := by
  unfold trapTarget
  split
  · apply alignedPc_of_lowBits <;> simp [trapBase, BitVec.getElem_add, BitVec.carry_succ]
  · apply alignedPc_of_lowBits <;> simp [trapBase]

/-! ### Masked values (00_scope.md R13) -/

/-- A masked value has no bit outside the mask. -/
theorem and_mask_and_not {w : Nat} (v m : BitVec w) : v &&& m &&& ~~~m = 0 := by
  rw [BitVec.and_assoc, BitVec.and_not_self]
  exact BitVec.and_zero

/-- The value of `mtvec` that a draw selects is legal (R51). -/
theorem mtvecLegal_mtvecSelect (v : Word) : mtvecLegal (mtvecSelect v) = true := by
  unfold mtvecSelect
  split
  · have hmode : ((v &&& 0xFFFFFF80) ||| 1).extractLsb' 0 2 = 1 := by
      apply BitVec.eq_of_getLsbD_eq
      intro k hk
      obtain rfl | rfl : k = 0 ∨ k = 1 := by omega
      all_goals simp
    have hbase : ((v &&& 0xFFFFFF80) ||| 1).extractLsb' 2 5 = 0 := by
      apply BitVec.eq_of_getLsbD_eq
      intro k hk
      obtain rfl | rfl | rfl | rfl | rfl : k = 0 ∨ k = 1 ∨ k = 2 ∨ k = 3 ∨ k = 4 := by omega
      all_goals simp
    rw [mtvecLegal, hmode, hbase]
    rfl
  · have hmode : (v &&& 0xFFFFFFFC).extractLsb' 0 2 = 0 := by
      apply BitVec.eq_of_getLsbD_eq
      intro k hk
      obtain rfl | rfl : k = 0 ∨ k = 1 := by omega
      all_goals simp
    rw [mtvecLegal, hmode]
    rfl

/-- Any write leaves a legal `mtvec` (R51). -/
theorem mtvecLegal_mtvecAfter (d : StepInput) (v : Word) : mtvecLegal (mtvecAfter d v) = true := by
  unfold mtvecAfter
  split
  · assumption
  · exact mtvecLegal_mtvecSelect _

/-! ### Protection regions and monitors (11 R100, R104, R119) -/

/-- OFF is a mode of every configuration (R104). -/
theorem implementsMode_zero (c : Cfg) : c.implementsMode 0 = true := by
  simp [Cfg.implementsMode]

/-- The stored form of a written mode is a mode that the configuration implements (R104). -/
theorem implementsMode_legalA {c : Cfg} (hc : c.wellFormed = true) (a : BitVec 2) : c.implementsMode (legalA c a) = true := by
  simp only [Cfg.wellFormed, Bool.and_eq_true] at hc
  obtain ⟨⟨⟨-, htor⟩, hna4⟩, hnapot⟩ := hc
  unfold legalA
  split
  · exact implementsMode_zero c
  · split
    · next ht => simp [Cfg.implementsMode, ht]
    · exact htor
  · split
    · exact hna4
    · next hn =>
      split
      · simp [Cfg.implementsMode] at hn ⊢; exact hn
      · exact implementsMode_orOff c _
  · split
    · next hn => simp [Cfg.implementsMode, hn]
    · exact hnapot

/-- A write of its configuration byte leaves a region a mode that the configuration implements (R104). -/
theorem implementsMode_withCfg {c : Cfg} (hc : c.wellFormed = true) (b : Byte) {p : PmpRegion}
    (hp : c.implementsMode p.a = true) : c.implementsMode (p.withCfg c b).a = true := by
  unfold PmpRegion.withCfg
  split
  · exact hp
  · exact implementsMode_legalA hc _

/-- A monitor whose registers hold 0 is legal. -/
theorem legalMonitor_empty (c : Cfg) (n : Nat) : LegalMonitor c n {} := ⟨fun _ => rfl, by simp, by simp⟩

/-- A real monitor stays legal when its counter takes a value cut to its width (R123). -/
theorem LegalMonitor.setCnt {c : Cfg} {n : Nat} {m : HpmMonitor} (h : LegalMonitor c n m) (hr : monitorReal c n = true)
    (v : DWord) : LegalMonitor c n { m with cnt := v &&& widthMask c.hpmCntWidth } :=
  ⟨fun hn => by simp [hr] at hn, h.event, and_mask_and_not _ _⟩

/-- A real monitor stays legal when its selector takes a masked value (R121). -/
theorem LegalMonitor.setEvent {c : Cfg} {n : Nat} {m : HpmMonitor} (h : LegalMonitor c n m) (hr : monitorReal c n = true)
    (v : BitVec 12) : LegalMonitor c n { m with event := v &&& hpmEventMask } :=
  ⟨fun hn => by simp [hr] at hn, and_mask_and_not _ _, h.cnt⟩

/-- A write to a monitor's register keeps every monitor legal if it keeps a real one legal (R119). -/
theorem legalMonitor_hpmAfter {s : State} (h : ∀ n, LegalMonitor s.cfg n (s.monitor n)) (j : Nat) (f : HpmMonitor → HpmMonitor)
    (hf : monitorReal s.cfg j = true → LegalMonitor s.cfg j (f (s.monitor j))) (n : Nat) :
    LegalMonitor s.cfg n (State.monitor { s with hpm := hpmAfter j f s } n) := by
  rw [monitor_hpmAfter]
  split
  · next hn =>
    obtain ⟨-, rfl, hr⟩ := hn
    exact hf hr
  · exact h n

/-- Time passing keeps every monitor legal (R123, R124). -/
theorem legalMonitor_tick {s : State} (h : ∀ n, LegalMonitor s.cfg n (s.monitor n)) (n : Nat) :
    LegalMonitor s.cfg n ((tick s).monitor n) := by
  by_cases hn : n < 13
  · rw [monitor_tick s n hn]
    split
    · next hc =>
      simp only [monitorCounts, Bool.and_eq_true] at hc
      exact (h n).setCnt hc.1.1 _
    · exact h n
  · rw [monitor_past _ (by omega)]
    exact legalMonitor_empty _ _

/-! ### Legal states under each operation -/

/-- Without user mode the mode stays as it is while the mode, `mstatus` and `mcounteren` do. -/
theorem MachineModeOnly.congr {s t : State} (h : MachineModeOnly s) (hp : t.priv = s.priv) (hm : t.mstatus = s.mstatus)
    (hc : t.mcounteren = s.mcounteren) : MachineModeOnly t where
  priv := hp.trans h.priv
  mpp := by rw [hm, h.mpp]
  mprv := by rw [hm, h.mprv]
  tw := by rw [hm, h.tw]
  cy := by rw [hc, h.cy]
  ir := by rw [hc, h.ir]

/-- Without user mode every value of MPP is stored as machine mode (R42). -/
theorem legalMpp_of_noUser {c : Cfg} (hu : c.extU = false) (v : BitVec 2) : legalMpp c v = .machine := by
  simp [legalMpp, hu]

/-- Where the instruction counter is absent it stays 0 (R110). -/
theorem Legal.instretNext_eq_zero {s : State} (h : Legal s) (hz : s.cfg.extZicntr = false) : instretNext s = 0 := by
  simp [instretNext, hz, (h.counters hz).2]

/-- Where the cycle counter is absent it stays 0 (R110). -/
theorem Legal.cycleAfter_eq_zero {s : State} (h : Legal s) (d : StepInput) (hz : s.cfg.extZicntr = false) :
    cycleAfter d s = 0 := by
  simp [cycleAfter, hz, (h.counters hz).1]

theorem legal_tick {s : State} (h : Legal s) : Legal (tick s) :=
  { h with
    user := fun hu => (h.user hu).congr rfl rfl rfl
    counters := fun hz => ⟨h.cycleAfter_eq_zero _ hz, (h.counters hz).2⟩
    hpm := legalMonitor_tick h.hpm }

theorem legal_countInstr {s : State} (h : Legal s) : Legal (countInstr s) :=
  { h with
    user := fun hu => (h.user hu).congr rfl rfl rfl
    counters := fun hz => ⟨(h.counters hz).1, h.instretNext_eq_zero hz⟩ }

/-- A state stays legal when its pc becomes an aligned address and its instruction counter, where it has one, any value. -/
theorem Legal.goOn {s : State} (h : Legal s) {p : Word} (hp : s.cfg.alignedPc p = true) {n : DWord}
    (hn : s.cfg.extZicntr = false → n = 0) : Legal { s with pc := p, instret := n } :=
  { h with
    pc := hp
    user := fun hu => (h.user hu).congr rfl rfl rfl
    counters := fun hz => ⟨(h.counters hz).1, hn hz⟩ }

theorem legal_accrueFlags {s : State} (f : BitVec 5) (h : Legal s) : Legal (accrueFlags f s) := by
  unfold accrueFlags
  split
  · next hx =>
    exact { h with
      user := fun hu => (h.user hu).congr rfl rfl rfl
      fpu := fun hf => by simp [hx] at hf }
  · exact h

/-- A register that exists may take any value (R20). -/
theorem legal_writeX {s : State} {r : RegNum} (v : Word) (hr : RegNum.existsIn s.cfg r = true) (h : Legal s) :
    Legal (writeX r v s) := by
  have hregs : ∀ q : RegNum, RegNum.existsIn s.cfg q = false → readX (writeX r v s) q = 0 := by
    intro q hq
    have hne : q ≠ r := by rintro rfl; simp [hr] at hq
    rw [readX_writeX_other v s hne]
    exact h.regs q hq
  unfold writeX at hregs ⊢
  split
  · exact h
  · next hz =>
    simp only [hz, if_false] at hregs
    exact { h with
      user := fun hu => (h.user hu).congr rfl rfl rfl
      regs := hregs }

theorem legal_writeRegs {s : State} (ws : List (RegNum × Word)) (h : Legal s) : Legal (writeRegs ws s) := by
  induction ws generalizing s with
  | nil => exact h
  | cons w rest ih =>
    obtain ⟨r, v⟩ := w
    unfold writeRegs
    split
    · next hr => exact ih (legal_writeX v hr h)
    · exact ih h

theorem legal_trapEntry {s : State} (interrupt : Bool) (code : BitVec 5) (epc mtval mtinst : Word) (h : Legal s) :
    Legal (trapEntry interrupt code epc mtval mtinst s) :=
  { h with
    pc := alignedPc_trapTarget _ s interrupt code
    mepc := alignedPc_alignPc _ _
    user := fun hu =>
      { h.user hu with
        priv := rfl
        mpp := legalMpp_of_noUser hu _ } }

theorem legal_trapReturn {s : State} (h : Legal s) : Legal (trapReturn s) :=
  { h with
    pc := h.mepc
    user := fun hu =>
      { h.user hu with
        priv := (h.user hu).mpp
        mpp := legalMpp_of_noUser hu _
        mprv := by simp [(h.user hu).mprv] } }

theorem legal_raiseException {s : State} (c : ExcCause) (w : Word) (h : Legal s) : Legal (raiseException c w s) :=
  legal_trapEntry _ _ _ _ _ (legal_countInstr h)

theorem legal_raiseFetchFault {s : State} (h : Legal s) : Legal (raiseFetchFault s) := by
  unfold raiseFetchFault
  apply legal_trapEntry
  split
  · exact legal_countInstr h
  · exact h

/-- The state after reset of a well-formed configuration is legal (70_reset_and_hazards.md R320 to R322). -/
theorem legal_resetOf {c : Cfg} (hc : c.wellFormed = true) : Legal (State.resetOf c) := by
  have hregion : ∀ i, (State.resetOf c).region i = {} := by
    intro i
    by_cases hi : i < 16
    · simp [State.region, State.resetOf, hi]
    · exact region_past _ (by omega)
  have hmonitor : ∀ n, (State.resetOf c).monitor n = {} := by
    intro n
    by_cases hn : n < 13
    · simp [State.monitor, State.resetOf, hn]
    · exact monitor_past _ (by omega)
  have hboot : c.alignedPc c.bootAddr = true := by
    simp only [Cfg.wellFormed, Bool.and_eq_true] at hc
    obtain ⟨⟨⟨⟨⟨-, hb⟩, -⟩, -⟩, -⟩, -⟩ := hc
    exact hb
  exact {
    cfg := hc
    notDebug := rfl
    pc := hboot
    mepc := by simp [State.resetOf, Cfg.alignedPc]
    user := fun hu => ⟨rfl, by simp_all [State.resetOf, resetMpp], rfl, rfl, rfl, rfl⟩
    regs := fun r _ => by simp [readX, State.resetOf]
    fpu := fun _ => ⟨rfl, rfl⟩
    mie := by simp [State.resetOf]
    mtvec := by simp [State.resetOf, mtvecLegal]
    inhibit := by simp [State.resetOf]
    counters := fun _ => ⟨rfl, rfl⟩
    pmpSurplus := fun i _ => hregion i
    pmpModes := fun i => by rw [hregion]; exact implementsMode_zero c
    hpm := fun n => by rw [hmonitor]; exact legalMonitor_empty c n
    memory := rfl }

/-- The general registers, memory and what the step's input sets are bound only by the E extension and the canonical form. -/
theorem Legal.setFree {s : State} (h : Legal s) {x : Vector Word 32} {m : List Host.Cell} (tr : TriggerRegs) (dr : DebugRegs)
    (is : List StepInput) (n : Nat) (d : StepInput)
    (hx : ∀ r : RegNum, RegNum.existsIn s.cfg r = false → readX { s with x := x } r = 0) (hm : Memory.wf m = true) :
    Legal { s with x := x, mem := m, trigger := tr, debugRegs := dr, inputs := is, stepNo := n, draw := d } :=
  { h with
    user := fun hu => (h.user hu).congr rfl rfl rfl
    regs := hx
    memory := hm }

theorem legal_cpuReset {s : State} (r : ResetValues) (h : Legal s) : Legal (cpuReset r s) := by
  refine (legal_resetOf h.cfg).setFree _ _ _ _ _ (fun q hq => ?_) (Memory.wf_writeCells r.bytes [] rfl)
  have hread := readX_cpuReset r s q
  rw [show RegNum.existsIn s.cfg q = false from hq] at hread
  exact hread.trans (by simp)

/-! ### Legal states under the write of one CSR (10_state.md R31, 00_scope.md R13) -/

/-- With Zfinx the flags and the rounding mode take any value (R35). -/
theorem Legal.setFpu {s : State} (h : Legal s) (hx : s.cfg.extZfinx = true) (f : BitVec 5) (r : BitVec 3) :
    Legal { s with fflags := f, frm := r } :=
  { h with
    user := fun hu => (h.user hu).congr rfl rfl rfl
    fpu := fun hf => by simp [hx] at hf }

/-- With Zicntr the counters take any value (R110). -/
theorem Legal.setCounters {s : State} (h : Legal s) (hx : s.cfg.extZicntr = true) (c n : DWord) :
    Legal { s with cycle := c, instret := n } :=
  { h with
    user := fun hu => (h.user hu).congr rfl rfl rfl
    counters := fun hz => by simp [hx] at hz }

/-- Any value written to `mstatus` is legalised (R41, R42). -/
theorem Legal.setMstatus {s : State} (h : Legal s) (v : Word) : Legal { s with mstatus := mstatusOfWord s.cfg v } :=
  { h with
    user := fun (hu : s.cfg.extU = false) =>
      { h.user hu with
        mpp := legalMpp_of_noUser hu _
        mprv := by simp [mstatusOfWord, hu]
        tw := by simp [mstatusOfWord, hu] } }

/-- With user mode `mcounteren` takes any value (R56). -/
theorem Legal.setMcounteren {s : State} (h : Legal s) (hx : s.cfg.extU = true) (m : MCounteren) :
    Legal { s with mcounteren := m } :=
  { h with user := fun hu => by simp [hx] at hu }

/-- The trap registers take values with their hardwired bits at their constants (R49, R51, R62, R127). -/
theorem Legal.setTrapRegisters {s : State} (h : Legal s) {e v w i : Word} (k : Word) (he : s.cfg.alignedPc e = true)
    (hv : mtvecLegal v = true) (hw : w &&& ~~~mieMask = 0) (hi : i &&& ~~~mcountinhibitMask s.cfg = 0) :
    Legal { s with mepc := e, mtvec := v, mie := w, mcountinhibit := i, mscratch := k } :=
  { h with
    user := fun hu => (h.user hu).congr rfl rfl rfl
    mepc := he
    mtvec := hv
    mie := hw
    inhibit := hi }

/-- A write to a monitor's register keeps the state legal if it keeps that monitor legal (R119). -/
theorem Legal.setMonitor {s : State} (h : Legal s) (j : Nat) (f : HpmMonitor → HpmMonitor)
    (hf : monitorReal s.cfg j = true → LegalMonitor s.cfg j (f (s.monitor j))) : Legal { s with hpm := hpmAfter j f s } :=
  { h with
    user := fun hu => (h.user hu).congr rfl rfl rfl
    hpm := legalMonitor_hpmAfter h.hpm j f hf }

/-- A write to `pmpcfg<k>` leaves surplus regions alone and every region a mode of the configuration (R27, R104). -/
theorem Legal.setPmpcfg {s : State} (h : Legal s) (k : Nat) (v : Word) : Legal { s with pmp := pmpAfterCfg k v s } :=
  { h with
    user := fun hu => (h.user hu).congr rfl rfl rfl
    pmpSurplus := fun i hi => by
      rw [region_pmpAfterCfg, if_neg fun hlt => absurd hlt.2.2 (Nat.not_lt.mpr hi)]
      exact h.pmpSurplus i hi
    pmpModes := fun i => by
      rw [region_pmpAfterCfg]
      split
      · exact implementsMode_withCfg h.cfg _ (h.pmpModes i)
      · exact h.pmpModes i }

/-- Only an implemented region's address takes writes (R27, R108). -/
theorem lt_of_pmpaddrWritable {s : State} {i : Nat} (h : pmpaddrWritable s i = true) : i < s.cfg.pmpNumRegions := by
  simp only [pmpaddrWritable, Bool.and_eq_true, decide_eq_true_eq] at h
  exact h.1.1

/-- A write to `pmpaddr<j>` leaves surplus regions alone and changes no mode (R27, R108). -/
theorem Legal.setPmpaddr {s : State} (h : Legal s) (j : Nat) (v : Word) : Legal { s with pmp := pmpAfterAddr j v s } :=
  { h with
    user := fun hu => (h.user hu).congr rfl rfl rfl
    pmpSurplus := fun i hi => by
      rw [region_pmpAfterAddr, if_neg]
      · exact h.pmpSurplus i hi
      · rintro ⟨-, rfl, hj⟩
        exact absurd (lt_of_pmpaddrWritable hj) (Nat.not_lt.mpr hi)
    pmpModes := fun i => by
      rw [region_pmpAfterAddr]
      split
      · exact h.pmpModes i
      · exact h.pmpModes i }

/-- A write of a CSR that exists leaves a legal state. -/
theorem legal_csrWrite {c : Csr} {v : Word} {s t : State} (h : Legal s) (hx : c.existsIn s.cfg = true)
    (hw : csrWrite c v s = .ok t) : Legal t := by
  cases c with
  | tselect | tdata1 | tdata2 | tinfo | dcsr | dpc | dscratch0 => cases hw
  | fflags | frm | fcsr => cases hw; exact h.setFpu hx _ _
  | mcycle | mcycleh | minstret | minstreth => cases hw; exact h.setCounters hx _ _
  | mstatus => cases hw; exact h.setMstatus v
  | mcounteren => cases hw; exact h.setMcounteren hx _
  | mie => cases hw; exact h.setTrapRegisters _ h.mepc h.mtvec (and_mask_and_not _ _) h.inhibit
  | mtvec => cases hw; exact h.setTrapRegisters _ h.mepc (mtvecLegal_mtvecAfter _ _) h.mie h.inhibit
  | mcountinhibit => cases hw; exact h.setTrapRegisters _ h.mepc h.mtvec h.mie (and_mask_and_not _ _)
  | mepc => cases hw; exact h.setTrapRegisters _ (alignedPc_alignPc _ _) h.mtvec h.mie h.inhibit
  | mscratch => cases hw; exact h.setTrapRegisters v h.mepc h.mtvec h.mie h.inhibit
  | mhpmevent n => cases hw; exact h.setMonitor _ _ fun hr => (h.hpm _).setEvent hr _
  | mhpmcounter n | mhpmcounterh n => cases hw; exact h.setMonitor _ _ fun hr => (h.hpm _).setCnt hr _
  | pmpcfg k => cases hw; exact h.setPmpcfg _ v
  | pmpaddr j => cases hw; exact h.setPmpaddr _ v
  | _ => cases hw; exact h

/-! ### Legal states under each instruction and each step -/

/-- A CSR access that passes the check is one to a CSR that exists (R26, R28). -/
theorem existsIn_of_csrAllowed {c : Csr} {wr : Bool} {s : State} (h : csrAllowed c wr s = true) : c.existsIn s.cfg = true := by
  simp only [csrAllowed, Bool.and_eq_true] at h
  exact h.1.1.1.1.1

/-- The destination register of a well-formed instruction exists (R20). -/
theorem existsIn_dest {c : Cfg} {i : Instr} {rd : RegNum} (hw : i.wellFormed c = true) (hd : Instr.dest i = some rd) :
    RegNum.existsIn c rd = true := by
  cases i <;> simp_all [Instr.dest, Instr.wellFormed]

theorem legal_csrModify {c : Csr} {rd : RegNum} {wr : Bool} {new : Word → Word} {s t : State} (h : Legal s)
    (hx : c.existsIn s.cfg = true) (hr : RegNum.existsIn s.cfg rd = true) (ht : csrModify c rd wr new s = .next t) :
    Legal t := by
  obtain ⟨u, hu, rfl⟩ := csrModify_next ht
  have hkept : Legal u ∧ u.cfg = s.cfg := by
    split at hu
    · exact ⟨legal_csrWrite h hx hu, (csrWrite_kept hu).cfg⟩
    · cases hu
      exact ⟨h, rfl⟩
  obtain ⟨hl, hc⟩ := hkept
  refine legal_writeX _ (by simpa [hc] using hr) (hl.goOn ?_ ?_)
  · rw [hc, nextPc, alignedPc_add_four]
    exact h.pc
  · intro hz
    split
    · exact (hl.counters hz).2
    · exact h.instretNext_eq_zero (hc ▸ hz)

theorem legal_exec {i : Instr} {s t : State} (h : Legal s) (he : exec i s = .next t) : Legal t := by
  obtain ⟨-, hw, hcase⟩ := exec_next he
  cases hcase with
  | illegal ht => subst ht; exact legal_raiseException _ _ h
  | csr c rd wr _ hd ha ht => exact legal_csrModify h (existsIn_of_csrAllowed ha) (existsIn_dest hw hd) ht
  | ret _ _ ht => subst ht; exact legal_trapReturn (legal_countInstr h)
  | wait _ _ ht =>
    subst ht
    exact { legal_countInstr h with
      pc := (alignedPc_add_four _ _).trans h.pc
      user := fun hu => (h.user hu).congr rfl rfl rfl }

theorem legal_foreignStep {s : State} (w : Word) (h : Legal s) : Legal (foreignStep w s) := by
  have hf : Legal (accrueFlags s.draw.foreign.fflags s) := legal_accrueFlags _ h
  cases hx : foreignException s with
  | some c =>
    rw [foreignStep_exception hx]
    exact legal_raiseException c w hf
  | none =>
    have hl : Legal (writeRegs s.draw.foreign.regWrites (accrueFlags s.draw.foreign.fflags s)) := legal_writeRegs _ hf
    have hm : Memory.wf (storeAll s.mem s.draw.foreign.accesses) = true := wf_storeAll _ _ h.memory
    rw [writeRegs_kept] at hl
    rw [foreignStep_completes hx]
    exact { hl with
      pc := by simpa using alignedPc_alignPc s.cfg s.draw.foreign.nextPc
      user := fun hu => (hl.user hu).congr rfl rfl rfl
      counters := fun hz => ⟨(hl.counters hz).1, h.instretNext_eq_zero (by simpa using hz)⟩
      memory := hm }

/-- Settles O54: every operation that a step is made of keeps a legal state legal. -/
theorem stepKeepsLegal : Obligations.StepKeepsLegal := by
  intro s t h hs
  obtain ⟨-, ⟨r, -, rfl⟩ | ⟨-, heffect⟩⟩ := step_next hs
  · exact legal_cpuReset r h
  · have hu : Legal (tick s) := legal_tick h
    cases heffect with
    | asleep _ ht => subst ht; exact hu
    | interrupt _ i _ ht => subst ht; exact legal_trapEntry _ _ _ _ _ hu
    | fetchFault _ _ _ ht => subst ht; exact legal_raiseFetchFault hu
    | foreign _ _ w _ _ _ ht => subst ht; exact legal_foreignStep w hu
    | ran _ _ _ _ i _ he => exact legal_exec hu he

end Sys2Proof.Machine
end

section
/-! PROOFS. What the machine refuses by name and what no step changes (O27, O56). -/

namespace Sys2Proof.Machine

/-! ### The configuration and debug mode (00_scope.md R5, 10_state.md R23) -/

/-- An instruction changes neither the configuration nor debug mode. -/
theorem exec_keeps_cfg {i : Instr} {s t : State} (h : exec i s = .next t) : t.cfg = s.cfg ∧ t.debugMode = s.debugMode := by
  obtain ⟨-, -, hcase⟩ := exec_next h
  cases hcase with
  | illegal ht => subst ht; exact ⟨rfl, rfl⟩
  | ret _ _ ht => subst ht; exact ⟨rfl, rfl⟩
  | wait _ _ ht => subst ht; exact ⟨rfl, rfl⟩
  | csr c rd wr _ _ _ ht =>
    obtain ⟨u, hu, rfl⟩ := csrModify_next ht
    split at hu
    · have hk := csrWrite_kept hu
      exact ⟨by simpa using hk.cfg, by simpa using hk.debugMode⟩
    · cases hu
      exact ⟨by simp, by simp⟩

/-- An out-of-scope instruction changes neither the configuration nor debug mode. -/
theorem foreignStep_keeps_cfg (w : Word) (s : State) :
    (foreignStep w s).cfg = s.cfg ∧ (foreignStep w s).debugMode = s.debugMode := by
  cases hx : foreignException s with
  | some c => rw [foreignStep_exception hx]; simp
  | none => rw [foreignStep_completes hx]; simp

/-- A failed fetch changes neither the configuration nor debug mode. -/
theorem raiseFetchFault_keeps_cfg (s : State) :
    (raiseFetchFault s).cfg = s.cfg ∧ (raiseFetchFault s).debugMode = s.debugMode := by
  unfold raiseFetchFault
  split <;> simp

/-- Settles O56: each thing a step can do keeps both fields; a reset leaves debug mode off, where a running hart has it. -/
theorem configurationIsFixed : Obligations.ConfigurationIsFixed := by
  intro s t hs
  obtain ⟨hr, ⟨r, -, rfl⟩ | ⟨-, heffect⟩⟩ := step_next hs
  · exact ⟨cpuReset_cfg r s, (cpuReset_debugMode r s).trans hr.notDebug.symm⟩
  · cases heffect with
    | asleep _ ht => subst ht; exact ⟨rfl, rfl⟩
    | interrupt _ i _ ht => subst ht; exact ⟨rfl, rfl⟩
    | fetchFault _ _ _ ht => subst ht; exact raiseFetchFault_keeps_cfg (tick s)
    | foreign _ _ w _ _ _ ht => subst ht; exact foreignStep_keeps_cfg w (tick s)
    | ran _ _ _ _ i _ he => exact exec_keeps_cfg (s := tick s) he

/-! ### Refusals by name -/

/-- Every instruction has its meaning behind the one guard. -/
theorem exec_eq_inScope (i : Instr) (s : State) : ∃ r, exec i s = inScope i s r := by
  cases i <;> exact ⟨_, rfl⟩

/-- An instruction of a refused machine is refused for the machine's reason (R6, R23). -/
theorem exec_refused {i : Instr} {s : State} {why : Refusal} (h : machineRefusal s = some why) : exec i s = .refused why := by
  obtain ⟨r, he⟩ := exec_eq_inScope i s
  rw [he]
  simp only [inScope, h]

/-- A step of a refused machine is refused for the machine's reason (R6, R23). -/
theorem step_refused {s : State} {why : Refusal} (h : machineRefusal s = some why) : step s = .refused why := by
  simp only [step, h]

/-- A hart in debug mode is refused (R23). -/
theorem machineRefusal_debugMode {s : State} (h : s.debugMode = true) : machineRefusal s = some .debugMode := by
  simp [machineRefusal, h]

/-- A hart without Zicsr is refused (R6). -/
theorem machineRefusal_zicsrAbsent {s : State} (hd : s.debugMode = false) (hz : s.cfg.extZicsr = false) :
    machineRefusal s = some .zicsrAbsent := by
  simp [machineRefusal, hd, hz]

/-- An instruction that names a register the configuration does not have is refused (R20, U14). -/
theorem exec_rv32eRegister {i : Instr} {s : State} (hr : Running s) (hw : i.wellFormed s.cfg = false) :
    exec i s = .refused .rv32eRegister := by
  obtain ⟨r, he⟩ := exec_eq_inScope i s
  rw [he]
  simp [inScope, (machineRefusal_none_iff s).mpr hr, hw]

/-- A write to a trigger register has no specified effect (R140). -/
theorem csrWrite_trigger {c : Csr} (v : Word) (s : State) (h : isTriggerCsr c = true) :
    csrWrite c v s = .error .triggerWrite := by
  cases c with
  | tselect | tdata1 | tdata2 | tinfo => rfl
  | _ => cases h

/-- A write access to a trigger register that passes the check is refused (R140, U10). -/
theorem exec_triggerWrite {i : Instr} {c : Csr} {s : State} (hr : Running s) (hw : i.wellFormed s.cfg = true)
    (hi : Instr.access i = some (c.addr, true)) (hc : isTriggerCsr c = true) (ha : csrAllowed c true s = true) :
    exec i s = .refused .triggerWrite := by
  obtain ⟨rd, -, he⟩ := exec_allowed hr hw hi ha
  rw [he]
  simp [csrModify, csrWrite_trigger _ s hc]

/-- Settles O27. -/
theorem refusedFormsStopByName : Obligations.RefusedFormsStopByName := by
  intro i s
  refine ⟨exec_rv32eRegister, fun c hr hw hi hc ha => exec_triggerWrite hr hw hi hc ha, fun hd => ?_, fun hd hz => ?_⟩
  · have hm := machineRefusal_debugMode hd
    exact ⟨exec_refused hm, step_refused hm⟩
  · have hm := machineRefusal_zicsrAbsent hd hz
    exact ⟨exec_refused hm, step_refused hm⟩

end Sys2Proof.Machine
end

section
/-! PROOFS. The access check (O30, O31): its clauses by the address of the CSR (10_state.md R24, R28). -/

namespace Sys2Proof.Machine

/-- A property of the 99 rows of the table holds of every CSR. -/
theorem forall_csr {p : Csr → Prop} (h : ∀ c ∈ Csr.all, p c) (c : Csr) : p c := h c (csr_mem_all c)

/-! ### The class columns of the table by address -/

/-- Address bits 9:8 are 11 exactly for the machine and debug classes (30_encoding.md R193). -/
theorem privBits_addr_iff (c : Csr) :
    c.addr.extractLsb' 8 2 = 0b11#2 ↔ c.cls = .mrw ∨ c.cls = .mro ∨ c.cls = .drw := by
  revert c
  exact forall_csr (by decide)

/-- Address bits 11:10 are 11 exactly for the read-only classes (30_encoding.md R193). -/
theorem readOnlyBits_addr_iff (c : Csr) : c.addr.extractLsb' 10 2 = 0b11#2 ↔ c.cls.readOnly = true := by
  revert c
  exact forall_csr (by decide)

/-- The addresses of the read-only classes. -/
theorem mem_readOnly_iff (c : Csr) :
    c.addr ∈ [0xc00, 0xc02, 0xc80, 0xc82, 0xf11, 0xf12, 0xf13, 0xf14, 0xf15, 0xfc0] ↔ c.cls.readOnly = true := by
  revert c
  exact forall_csr (by decide)

/-- The addresses of the debug class. -/
theorem mem_debug_iff (c : Csr) : c.addr ∈ [0x7b0, 0x7b1, 0x7b2] ↔ c.cls = .drw := by
  revert c
  exact forall_csr (by decide)

/-- The addresses of the user classes. -/
theorem mem_user_iff (c : Csr) :
    c.addr ∈ [0x001, 0x002, 0x003, 0xc00, 0xc02, 0xc80, 0xc82] ↔ c.cls ≠ .mrw ∧ c.cls ≠ .mro ∧ c.cls ≠ .drw := by
  revert c
  exact forall_csr (by decide)

/-- The addresses of the user-mode views of the cycle counter. -/
theorem mem_cycle_iff (c : Csr) : c.addr ∈ [0xc00, 0xc80] ↔ c = .cycle ∨ c = .cycleh := by
  revert c
  exact forall_csr (by decide)

/-- The addresses of the user-mode views of the instruction counter. -/
theorem mem_instret_iff (c : Csr) : c.addr ∈ [0xc02, 0xc82] ↔ c = .instret ∨ c = .instreth := by
  revert c
  exact forall_csr (by decide)

/-! ### The "exists when" column of the table by address -/

/-- The extensions whose presence decides whether a CSR exists (R24, R26). -/
inductive Extension where
  | zicsr | zfinx | user | smpmp | zicntr | zihpm | sdtrig | sdext
deriving DecidableEq

/-- The configuration has the extension. -/
def Extension.configured (c : Cfg) : Extension → Bool
  | .zicsr => c.extZicsr
  | .zfinx => c.extZfinx
  | .user => c.extU
  | .smpmp => c.extSmpmp
  | .zicntr => c.extZicntr
  | .zihpm => c.extZihpm
  | .sdtrig => c.extSdtrig
  | .sdext => c.extSdext

/-- The extension that a CSR belongs to. -/
def Csr.extension : Csr → Extension
  | .fflags | .frm | .fcsr => .zfinx
  | .mcounteren | .menvcfg | .menvcfgh => .user
  | .mhpmevent _ | .mhpmcounter _ | .mhpmcounterh _ => .zihpm
  | .pmpcfg _ | .pmpaddr _ => .smpmp
  | .tselect | .tdata1 | .tdata2 | .tinfo => .sdtrig
  | .dcsr | .dpc | .dscratch0 => .sdext
  | .mcycle | .minstret | .mcycleh | .minstreth | .cycle | .instret | .cycleh | .instreth => .zicntr
  | _ => .zicsr

/-- A CSR exists where its extension is configured. -/
theorem existsIn_eq_configured (cfg : Cfg) (c : Csr) : c.existsIn cfg = c.extension.configured cfg := by
  cases c <;> rfl

/-- The addresses of each extension's CSRs. -/
theorem addr_extension_iff (c : Csr) :
    (c.addr ∈ [0x300, 0x301, 0x304, 0x305, 0x310, 0x320, 0x340, 0x341, 0x342, 0x343, 0x344, 0x34a, 0xbc0, 0xf11, 0xf12, 0xf13,
        0xf14, 0xf15, 0xfc0] ↔ c.extension = .zicsr)
      ∧ (c.addr ∈ [0x001, 0x002, 0x003] ↔ c.extension = .zfinx)
      ∧ (c.addr ∈ [0x306, 0x30a, 0x31a] ↔ c.extension = .user)
      ∧ (((0x3a0 ≤ c.addr ∧ c.addr ≤ 0x3a3) ∨ (0x3b0 ≤ c.addr ∧ c.addr ≤ 0x3bf)) ↔ c.extension = .smpmp)
      ∧ (c.addr ∈ [0xb00, 0xb02, 0xb80, 0xb82, 0xc00, 0xc02, 0xc80, 0xc82] ↔ c.extension = .zicntr)
      ∧ (((0x323 ≤ c.addr ∧ c.addr ≤ 0x32f) ∨ (0xb03 ≤ c.addr ∧ c.addr ≤ 0xb0f) ∨ (0xb83 ≤ c.addr ∧ c.addr ≤ 0xb8f))
          ↔ c.extension = .zihpm)
      ∧ (c.addr ∈ [0x7a0, 0x7a1, 0x7a2, 0x7a4] ↔ c.extension = .sdtrig)
      ∧ (c.addr ∈ [0x7b0, 0x7b1, 0x7b2] ↔ c.extension = .sdext) := by
  revert c
  exact forall_csr (by decide)

/-- With Zicsr a CSR exists if and only if its address is implemented by the table (R24). -/
theorem implementedAt_addr {cfg : Cfg} (hz : cfg.extZicsr = true) (c : Csr) :
    ImplementedAt cfg c.addr ↔ c.existsIn cfg = true := by
  obtain ⟨hzicsr, hzfinx, huser, hsmpmp, hzicntr, hzihpm, hsdtrig, hsdext⟩ := addr_extension_iff c
  rw [ImplementedAt, hzicsr, hzfinx, huser, hsmpmp, hzicntr, hzihpm, hsdtrig, hsdext, existsIn_eq_configured]
  cases c.extension <;> simp [Extension.configured, hz]

/-! ### The access check -/

/-- On a running hart the model's check is R28's. -/
theorem csrAllowed_iff {s : State} (hr : Running s) (c : Csr) (wr : Bool) :
    csrAllowed c wr s = true ↔ CheckPasses c.addr wr s := by
  rw [CheckPasses, implementedAt_addr hr.zicsr, mem_debug_iff, mem_user_iff, mem_cycle_iff, mem_instret_iff, mem_readOnly_iff]
  simp only [csrAllowed, hr.notDebug, Bool.and_eq_true, Bool.or_eq_true, bne_iff_ne, beq_iff_eq, Bool.not_eq_true',
    Bool.false_eq_true, or_false]
  grind

/-- An access to an address that fails the check fails the model's. -/
theorem csrCheck_eq_false {a : CsrAddr} {wr : Bool} {s : State} (hr : Running s) (h : ¬ CheckPasses a wr s) :
    csrCheck a wr s = false := by
  unfold csrCheck
  split
  · rfl
  · next c hc =>
    obtain rfl := csrOfAddr_addr_eq hc
    rw [← csrAllowed_iff hr] at h
    simpa using h

/-- A write access to a CSR of a read-only class fails the check. -/
theorem not_checkPasses_readOnly {c : Csr} {s : State} (h : c.cls.readOnly = true) : ¬ CheckPasses c.addr true s :=
  fun ⟨_, _, _, _, _, hw⟩ => hw rfl ((mem_readOnly_iff c).mpr h)

/-- An access from user mode to a CSR of a machine class or the debug class fails the check. -/
theorem not_checkPasses_user {c : Csr} {wr : Bool} {s : State} (hu : s.priv = .user)
    (h : c.cls = .mrw ∨ c.cls = .mro ∨ c.cls = .drw) : ¬ CheckPasses c.addr wr s := by
  rintro ⟨-, -, hmem | hm, -, -, -⟩
  · obtain ⟨hmrw, hmro, hdrw⟩ := (mem_user_iff c).mp hmem
    obtain h | h | h := h
    · exact hmrw h
    · exact hmro h
    · exact hdrw h
  · simp [hu] at hm

/-- Settles O30: such a CSR fails the check. -/
theorem machineCsrTrapsInUserMode : Obligations.MachineCsrTrapsInUserMode := by
  intro i c wr s hr hw hi hu hbits
  have hcls := (privBits_addr_iff c).mp hbits
  exact exec_denied hr hw hi (csrCheck_eq_false hr (not_checkPasses_user hu hcls))

/-- Settles O31. -/
theorem readOnlyCsrWriteTraps : Obligations.ReadOnlyCsrWriteTraps := by
  refine ⟨fun c wr s hr => csrAllowed_iff hr c wr, ?_, ?_⟩
  · intro i a wr s hr hw hi hn
    exact exec_denied hr hw hi (csrCheck_eq_false hr hn)
  · intro i c s hr hw hi hbits
    have hro := (readOnlyBits_addr_iff c).mp hbits
    exact exec_denied hr hw hi (csrCheck_eq_false hr (not_checkPasses_readOnly hro))

end Sys2Proof.Machine
end

section
/-! PROOFS. Out-of-scope words (O9): what `foreignStep` counts, accrues, keeps and records (00_scope.md R14, U15). -/

namespace Sys2Proof.Machine

/-! ### The machine registers and an exception through the passing of time -/

theorem SameMachineRegisters.trans {s t u : State} (h : SameMachineRegisters s t) (g : SameMachineRegisters t u) :
    SameMachineRegisters s u where
  cfg := g.cfg.trans h.cfg
  mstatus := g.mstatus.trans h.mstatus
  mie := g.mie.trans h.mie
  mtvec := g.mtvec.trans h.mtvec
  mcounteren := g.mcounteren.trans h.mcounteren
  mscratch := g.mscratch.trans h.mscratch
  mepc := g.mepc.trans h.mepc
  mcause := g.mcause.trans h.mcause
  mtval := g.mtval.trans h.mtval
  mtinst := g.mtinst.trans h.mtinst
  pmp := g.pmp.trans h.pmp
  events := fun n => (g.events n).trans (h.events n)
  mcountinhibit := g.mcountinhibit.trans h.mcountinhibit

/-- The passing of time changes no event selector (11 R121, R124). -/
theorem event_tick (s : State) (n : Nat) : ((tick s).monitor n).event = (s.monitor n).event := by
  by_cases hn : n < 13
  · rw [monitor_tick s n hn]
    split <;> rfl
  · rw [monitor_past _ (by omega), monitor_past _ (by omega)]

/-- The passing of time changes no register that only machine-mode software may write, the counters apart. -/
theorem sameMachineRegisters_tick (s : State) : SameMachineRegisters s (tick s) where
  cfg := rfl
  mstatus := rfl
  mie := rfl
  mtvec := rfl
  mcounteren := rfl
  mscratch := rfl
  mepc := rfl
  mcause := rfl
  mtval := rfl
  mtinst := rfl
  pmp := rfl
  events := event_tick s
  mcountinhibit := rfl

/-- An exception taken after time has passed is one taken at the pc that the step began with. -/
theorem EnteredException.of_tick {code : BitVec 5} {s t : State} (h : EnteredException code (tick s) t) :
    EnteredException code s t :=
  { h with }

/-- MPP holds the mode that an exception came from, machine mode where there is no other (R42, R282). -/
theorem legalMpp_privBits (c : Cfg) (p : Priv) : legalMpp c (privBits p) = if c.extU && p == .user then .user else .machine := by
  cases p <;> simp [legalMpp, privBits]

/-- An exception taken after flags were accrued (60_exceptions.md R281 to R285). -/
theorem enteredException_raiseException (c : ExcCause) (w : Word) (f : BitVec 5) (s : State) :
    EnteredException (ExcCause.code c) s (raiseException c w (accrueFlags f s)) where
  mepc := by simp
  mcause := rfl
  mstatus := by simp [legalMpp_privBits]
  priv := rfl
  pc := by simp [trapTarget, trapBase]
  x := by simp
  mem := by simp
  cfg := by simp
  frm := by simp
  mie := by simp
  mtvec := by simp
  mcounteren := by simp
  mscratch := by simp
  pmp := by simp
  mcountinhibit := by simp

/-- An exception records the instruction word (10_state.md R67). -/
theorem recordsInsn_raiseException (c : ExcCause) (w : Word) (s : State) : RecordsInsn w (raiseException c w s) := by
  constructor
  · intro hfull
    simp [mtinstOf, hfull]
  · intro hc hshort
    rw [raiseException_cfg] at hc
    simp [mtinstOf, hshort, hc, lowHalf]

/-! ### The effects of an out-of-scope instruction -/

/-- Flags that accrue move no counter. -/
@[simp] theorem instretNext_accrueFlags (f : BitVec 5) (s : State) : instretNext (accrueFlags f s) = instretNext s := by
  simp [instretNext, inhibitIR]

/-- Accruing flags clears none (10_state.md R36). -/
theorem fflags_accrueFlags (f : BitVec 5) (s : State) : (accrueFlags f s).fflags &&& s.fflags = s.fflags := by
  unfold accrueFlags
  split
  · ext k hk
    simp +contextual
  · exact BitVec.and_self

/-- An out-of-scope instruction is counted, with or without an exception (R114). -/
theorem foreignStep_instret (w : Word) (s : State) : (foreignStep w s).instret = instretNext s := by
  cases hx : foreignException s with
  | some c => simp [foreignStep_exception hx]
  | none => simp [foreignStep_completes hx]

/-- An out-of-scope instruction leaves the flags that it accrues over the old ones (R36). -/
theorem foreignStep_fflags (w : Word) (s : State) :
    (foreignStep w s).fflags = (accrueFlags s.draw.foreign.fflags s).fflags := by
  cases hx : foreignException s with
  | some c => simp [foreignStep_exception hx]
  | none => simp [foreignStep_completes hx]

/-- An out-of-scope instruction moves neither the cycle counter nor a monitor. -/
theorem foreignStep_cycle_hpm (w : Word) (s : State) : (foreignStep w s).cycle = s.cycle ∧ (foreignStep w s).hpm = s.hpm := by
  cases hx : foreignException s with
  | some c => simp [foreignStep_exception hx]
  | none => simp [foreignStep_completes hx]

/-- Without an exception an out-of-scope instruction keeps the machine registers, the mode and the rounding mode (R14). -/
theorem foreignStep_completes_keeps {w : Word} {s : State} (h : foreignException s = none) :
    SameMachineRegisters s (foreignStep w s) ∧ (foreignStep w s).priv = s.priv ∧ (foreignStep w s).frm = s.frm := by
  have he := foreignStep_completes (w := w) h
  refine ⟨?_, by simp [he], by simp [he]⟩
  constructor
  case events => exact fun n => by rw [monitor_congr (foreignStep_cycle_hpm w s).2]
  all_goals simp [he]

/-- With an exception an out-of-scope instruction takes it and records its word (R281 to R284). -/
theorem foreignStep_takes {w : Word} {s : State} {c : ExcCause} (h : foreignException s = some c) :
    EnteredException (ExcCause.code c) s (foreignStep w s) ∧ RecordsInsn w (foreignStep w s)
      ∧ (c = .illegalInstruction → (foreignStep w s).mtval = 0) := by
  rw [foreignStep_exception h]
  refine ⟨enteredException_raiseException c w _ s, recordsInsn_raiseException c w _, ?_⟩
  rintro rfl
  rfl

/-- An exception of its own is the one that an out-of-scope instruction raises. -/
theorem foreignException_own {s : State} {c : ExcCause} (h : s.draw.foreign.exception = some c) :
    foreignException s = some c := by
  simp [foreignException, h]

/-- A step whose fetch finds a word that does not decode runs it as an out-of-scope instruction. -/
theorem step_foreign {s : State} {w : Word} {e : DecodeError} (h : Running s) (hr : (nextInput s).reset = none)
    (hs : staysAsleep (nextInput s) s = false) (hn : interruptTaken (tick s) = none) (hf : fetch (tick s) = .word w)
    (hd : decode w = .error e) : step s = .next (foreignStep w (tick s)) := by
  rw [step_awake h hr hs]
  simp only [boundary, hn, runInstruction, hf, hd]

/-- Settles O9. -/
theorem outOfScopeWordKeepsMachineRegisters : Obligations.OutOfScopeWordKeepsMachineRegisters := by
  refine ⟨rfl, ?_⟩
  intro s w e hrun hr hs hn hf hd
  refine ⟨step_foreign hrun hr hs hn hf hd, foreignStep_instret w (tick s), ?_, ?_, ?_, ?_, ?_, ?_⟩
  · rw [foreignStep_fflags]
    exact fflags_accrueFlags _ (tick s)
  · exact (foreignStep_cycle_hpm w (tick s)).1
  · exact (foreignStep_cycle_hpm w (tick s)).2
  · intro hx ha
    obtain ⟨hm, hp, hfrm⟩ := foreignStep_completes_keeps (w := w) (foreignException_none (s := tick s) hx ha)
    exact ⟨(sameMachineRegisters_tick s).trans hm, hp, hfrm⟩
  · intro c hx
    obtain ⟨hentered, hrest⟩ := foreignStep_takes (w := w) (foreignException_own (s := tick s) hx)
    exact ⟨hentered.of_tick, hrest⟩
  · intro hx before a after hsplit hb ha
    obtain ⟨hentered, hrecords, -⟩ := foreignStep_takes (w := w) (foreignException_denied (s := tick s) hx hsplit hb ha)
    refine ⟨?_, hrecords⟩
    cases a <;> exact hentered.of_tick

end Sys2Proof.Machine
end

section
/-! PROOFS. Noninterference of user mode (O59): each thing a user-mode instruction can do, run from two states with the same user
view (60_exceptions.md R291). -/

namespace Sys2Proof.Machine

/-- A CSR access that user mode is allowed is to a user class, and no write access if the class is read-only (10_state.md R28). -/
theorem cls_of_user_allowed {c : Csr} {wr : Bool} {s : State} (hr : Running s) (hu : s.priv = .user)
    (h : csrAllowed c wr s = true) : c.cls = .urw ∨ (c.cls = .uro ∧ wr = false) := by
  obtain ⟨-, -, hmem | hm, -, -, hro⟩ := (csrAllowed_iff hr c wr).mp h
  · obtain ⟨hmrw, hmro, hdrw⟩ := (mem_user_iff c).mp hmem
    rw [mem_readOnly_iff] at hro
    cases hc : c.cls with
    | urw => exact .inl rfl
    | uro => exact .inr ⟨rfl, by simpa [hc, AccessClass.readOnly] using hro⟩
    | mrw => exact absurd hc hmrw
    | mro => exact absurd hc hmro
    | drw => exact absurd hc hdrw
  · simp [hu] at hm

section View

variable {s s' : State} (h : SameUserView s s')
include h

theorem SameUserView.running (hr : Running s) : Running s' :=
  ⟨h.debugMode.trans hr.notDebug, by rw [h.cfg, hr.zicsr]⟩

theorem SameUserView.readX_eq (r : RegNum) : readX s' r = readX s r := readX_congr h.x r

theorem SameUserView.newValue_eq (i : Instr) (old : Word) : Instr.newValue i s' old = Instr.newValue i s old := by
  cases i <;> simp [Instr.newValue, h.readX_eq]

theorem SameUserView.instretNext_eq : instretNext s' = instretNext s := by
  simp [instretNext, h.cfg, h.counting, h.instret]

theorem SameUserView.csrAllowed_eq (c : Csr) (wr : Bool) : csrAllowed c wr s' = csrAllowed c wr s := by
  simp [csrAllowed, h.cfg, h.debugMode, h.user.1, h.user.2, h.mcounteren]

/-- A CSR of a user class reads the same. -/
theorem SameUserView.csrRead_eq {c : Csr} (hc : c.cls = .urw ∨ c.cls = .uro) : csrRead c s' = csrRead c s := by
  cases c with
  | fflags => simp [csrRead, h.fflags]
  | frm => simp [csrRead, h.frm]
  | fcsr => simp [csrRead, fcsrWord, h.fflags, h.frm]
  | cycle | cycleh => simp [csrRead, h.cycle]
  | instret | instreth => simp [csrRead, h.instret]
  | _ => simp [Csr.cls] at hc

/-- A CSR of the writable user class takes the same value. -/
theorem SameUserView.csrWrite_agrees {c : Csr} (hc : c.cls = .urw) (v : Word) :
    ∃ u u', csrWrite c v s = .ok u ∧ csrWrite c v s' = .ok u' ∧ SameUserView u u' := by
  cases c with
  | fflags => exact ⟨_, _, rfl, rfl, { h with fflags := rfl }⟩
  | frm => exact ⟨_, _, rfl, rfl, { h with frm := rfl }⟩
  | fcsr => exact ⟨_, _, rfl, rfl, { h with fflags := rfl, frm := rfl }⟩
  | _ => cases hc

/-- The pc and the instruction counter become the same values. -/
theorem SameUserView.goOn (p : Word) (n : DWord) :
    SameUserView { s with pc := p, instret := n } { s' with pc := p, instret := n } :=
  { h with pc := rfl, instret := rfl }

/-- A general register takes the same value. -/
theorem SameUserView.writeX_agrees (r : RegNum) (v : Word) :
    SameUserView (writeX r v s) (writeX r v s') := by
  unfold writeX
  split
  · exact h
  · exact { h with x := by rw [h.x] }

end View

/-- An allowed CSR access does the same to two states with the same user view. -/
theorem csrModify_sameUserView {c : Csr} {rd : RegNum} {wr : Bool} {new : Word → Word} {s s' t : State}
    (h : SameUserView s s') (hc : c.cls = .urw ∨ (c.cls = .uro ∧ wr = false)) (ht : csrModify c rd wr new s = .next t) :
    ∃ t', csrModify c rd wr new s' = .next t' ∧ SameUserView t t' := by
  have hread : csrRead c s' = csrRead c s := h.csrRead_eq (hc.imp id And.left)
  have hwrite : ∃ u u', (if wr then csrWrite c (new (csrRead c s)) s else .ok s) = .ok u
      ∧ (if wr then csrWrite c (new (csrRead c s')) s' else .ok s') = .ok u' ∧ SameUserView u u' := by
    rw [hread]
    cases wr with
    | false => exact ⟨s, s', rfl, rfl, h⟩
    | true => exact h.csrWrite_agrees (by simpa using hc) _
  obtain ⟨u, u', hu, hu', hview⟩ := hwrite
  rw [csrModify_eq hu] at ht
  cases ht
  refine ⟨_, csrModify_eq hu', ?_⟩
  rw [hread, nextPc, nextPc, h.pc, h.instretNext_eq, hview.instret]
  exact (hview.goOn _ _).writeX_agrees _ _

/-- Settles O59: an instruction that stays in user mode is an allowed CSR access or a `wfi`, and both do the same to both states. -/
theorem userModeSeesNoMachineRegister : Obligations.UserModeSeesNoMachineRegister := by
  intro i s s' t h he hu
  obtain ⟨hr, hw, hcase⟩ := exec_next he
  have hr' : Running s' := h.running hr
  have hw' : i.wellFormed s'.cfg = true := by rw [h.cfg, hw]
  cases hcase with
  | illegal ht => subst ht; cases hu
  | ret _ hm _ => rw [h.user.1] at hm; cases hm
  | csr c rd wr hi hd ha ht =>
    obtain ⟨t', ht', hview⟩ := csrModify_sameUserView h (cls_of_user_allowed hr h.user.1 ha) ht
    refine ⟨t', ?_, hview⟩
    obtain ⟨rd', hd', he'⟩ := exec_allowed hr' hw' hi ((h.csrAllowed_eq c wr).trans ha)
    obtain rfl : rd = rd' := Option.some.inj (hd.symm.trans hd')
    rw [he', funext (h.newValue_eq i), ht']
  | wait hi hm ht =>
    subst hi ht
    have htw : ¬ (s'.priv = .user ∧ s'.mstatus.tw = true) := by
      rw [h.tw]
      exact fun hx => hm ⟨h.user.1, hx.2⟩
    refine ⟨{ countInstr s' with pc := nextPc s', sleeping := s'.draw.sleep }, ?_, ?_⟩
    · refine (inScope_running hr' hw').trans ?_
      rw [if_neg htw]
    · exact { h with
        pc := by simp [nextPc, h.pc]
        instret := h.instretNext_eq }

end Sys2Proof.Machine
end

section
/-! PROOFS. The privilege modes (O57, O58): which steps trap, which return from a trap, and that every other step keeps the mode
and, in user mode, the machine registers (60_exceptions.md R290, R291). -/

namespace Sys2Proof.Machine

/-! ### A step traps, returns from a trap, or goes on in its mode -/

/-- `t` is `s` after a trap was taken at the pc of `s`: where the trap went, what it recorded of the pc, the interrupt enable and
the mode (60_exceptions.md R281 to R283). -/
structure EnteredTrap (s t : State) : Prop where
  priv : t.priv = .machine
  pc : t.pc = trapTarget s t.mcause.interrupt t.mcause.code
  mepc : t.mepc = alignPc s.cfg s.pc
  mie : t.mstatus.mie = false
  mpie : t.mstatus.mpie = s.mstatus.mie
  mpp : t.mstatus.mpp = if s.cfg.extU && s.priv == .user then .user else .machine

/-- The one operation that takes a trap enters it. -/
theorem enteredTrap_trapEntry (interrupt : Bool) (code : BitVec 5) (mtval mtinst : Word) (s : State) :
    EnteredTrap s (trapEntry interrupt code s.pc mtval mtinst s) where
  priv := rfl
  pc := rfl
  mepc := rfl
  mie := rfl
  mpie := rfl
  mpp := legalMpp_privBits s.cfg s.priv

/-- An exception is a trap. -/
theorem EnteredException.enteredTrap {code : BitVec 5} {s t : State} (h : EnteredException code s t) : EnteredTrap s t where
  priv := h.priv
  pc := by rw [h.mcause, h.pc]
  mepc := h.mepc
  mie := by rw [h.mstatus]
  mpie := by rw [h.mstatus]
  mpp := by rw [h.mstatus]

/-- A trap taken from the counted state is one taken from the state. -/
theorem EnteredTrap.of_countInstr {s t : State} (h : EnteredTrap (countInstr s) t) : EnteredTrap s t :=
  { h with }

/-- A trap taken after time has passed is one taken at the pc, from the mode and with the interrupt enable that the step began
with. -/
theorem EnteredTrap.of_tick {s t : State} (h : EnteredTrap (tick s) t) : EnteredTrap s t :=
  { h with }

theorem enteredTrap_raiseIllegal (i : Instr) (s : State) : EnteredTrap s (raiseIllegal i s) :=
  (enteredTrap_trapEntry false _ _ _ (countInstr s)).of_countInstr

theorem enteredTrap_raiseFetchFault (s : State) : EnteredTrap s (raiseFetchFault s) := by
  unfold raiseFetchFault
  split
  · exact (enteredTrap_trapEntry false _ _ _ (countInstr s)).of_countInstr
  · exact enteredTrap_trapEntry false _ _ _ s

/-- What a step does, from the state `u` in which time has passed, that neither traps nor returns from a trap. -/
inductive GoesOn (u t : State) : Prop where
  /-- The hart sleeps on. -/
  | asleep (h : t = u)
  /-- An out-of-scope instruction completed. -/
  | foreign (w : Word) (hx : foreignException u = none) (h : t = foreignStep w u)
  /-- A CSR access completed. -/
  | csr (c : Csr) (rd : RegNum) (wr : Bool) (new : Word → Word) (allowed : csrAllowed c wr u = true)
      (h : csrModify c rd wr new u = .next t)
  /-- A `wfi` completed. -/
  | wait (h : t = { countInstr u with pc := nextPc u, sleeping := u.draw.sleep })

/-- The only word that decodes to `mret` is its own (30_encoding.md R194). -/
theorem eq_mretWord_of_decode {w : Word} (h : decode w = .ok .mret) : w = mretWord := by
  unfold decode at h
  split at h
  · cases h
  · split at h
    · cases h
    · split at h
      · split at h
        · assumption
        · split at h <;> cases h
      all_goals cases h

/-- Every step is a reset, takes a trap, is an `mret` in machine mode, or goes on. -/
theorem step_mode {s t : State} (h : step s = .next t) :
    Running s ∧ ((∃ r, (nextInput s).reset = some r ∧ t = cpuReset r s)
      ∨ ((nextInput s).reset = none
        ∧ (EnteredTrap s t
          ∨ (fetch (tick s) = .word mretWord ∧ s.priv = .machine ∧ t = trapReturn (countInstr (tick s)))
          ∨ GoesOn (tick s) t))) := by
  obtain ⟨hr, hreset | ⟨hnone, heffect⟩⟩ := step_next h
  · exact ⟨hr, .inl hreset⟩
  refine ⟨hr, .inr ⟨hnone, ?_⟩⟩
  cases heffect with
  | asleep _ ht => exact .inr (.inr (.asleep ht))
  | interrupt _ i _ ht => subst ht; exact .inl (enteredTrap_trapEntry true _ _ _ (tick s)).of_tick
  | fetchFault _ _ _ ht => subst ht; exact .inl (enteredTrap_raiseFetchFault (tick s)).of_tick
  | foreign _ _ w _ _ _ ht =>
    cases hx : foreignException (tick s) with
    | some c => subst ht; exact .inl (foreignStep_takes hx).1.enteredTrap.of_tick
    | none => exact .inr (.inr (.foreign w hx ht))
  | ran _ _ w hf i hd he =>
    obtain ⟨-, -, hcase⟩ := exec_next he
    cases hcase with
    | illegal ht => subst ht; exact .inl (enteredTrap_raiseIllegal i (tick s)).of_tick
    | csr c rd wr _ _ ha ht => exact .inr (.inr (.csr c rd wr _ ha ht))
    | ret hi hm ht => subst hi; exact .inr (.inl ⟨eq_mretWord_of_decode hd ▸ hf, hm, ht⟩)
    | wait _ _ ht => exact .inr (.inr (.wait ht))

/-! ### A step that goes on -/

/-- A step that goes on keeps the mode. -/
theorem GoesOn.priv {u t : State} (h : GoesOn u t) : t.priv = u.priv := by
  cases h with
  | asleep ht => rw [ht]
  | foreign w hx ht => rw [ht, (foreignStep_completes_keeps hx).2.1]
  | csr c rd wr new _ ht =>
    obtain ⟨v, hv, rfl⟩ := csrModify_next ht
    rw [writeX_priv]
    split at hv
    · exact (csrWrite_kept hv).priv
    · cases hv; rfl
  | wait ht => subst ht; rfl

/-- Settles O57: only a trap and an `mret` change the mode, and only an `mret` to user mode. -/
theorem modeChangesOnlyByMretAndTrap : Obligations.ModeChangesOnlyByMretAndTrap := by
  intro s t h
  obtain ⟨-, ⟨r, hr, rfl⟩ | ⟨hnone, hcase⟩⟩ := step_mode h
  · exact ⟨fun _ hu => (by cases hu), fun _ _ hz => (by simp [hr] at hz), fun _ _ => ⟨rfl, rfl⟩⟩
  refine ⟨fun hm hu => ?_, fun hu hm _ => ?_, fun r hr => by simp [hnone] at hr⟩
  · obtain htrap | ⟨hf, -, rfl⟩ | hgo := hcase
    · rw [htrap.priv] at hu; cases hu
    · exact ⟨hf, hu, rfl⟩
    · rw [hgo.priv, tick_priv, hm] at hu; cases hu
  · obtain htrap | ⟨-, hm', -⟩ | hgo := hcase
    · exact ⟨htrap.pc, htrap.mepc, htrap.mie, htrap.mpie, by simpa [hu] using htrap.mpp⟩
    · rw [hu] at hm'; cases hm'
    · rw [hgo.priv, tick_priv, hu] at hm; cases hm

/-! ### A step that goes on in user mode -/

/-- A write of a CSR of the writable user class changes the flags and the rounding mode only. -/
theorem csrWrite_urw {c : Csr} {v : Word} {s u : State} (hc : c.cls = .urw) (h : csrWrite c v s = .ok u) :
    ∃ f r, u = { s with fflags := f, frm := r } := by
  cases c with
  | fflags | frm | fcsr => cases h; exact ⟨_, _, rfl⟩
  | _ => cases hc

/-- What a step that goes on in user mode keeps, but for the counting of its instruction. -/
structure KeptInUserMode (u t : State) : Prop where
  registers : SameMachineRegisters u t
  cycle : t.cycle = u.cycle
  hpm : t.hpm = u.hpm
  instret : t.instret = u.instret ∨ t.instret = instretNext u
  trigger : t.trigger = u.trigger

/-- The registers that no update of a completing user-mode instruction touches stay. -/
theorem keptInUserMode_update {u : State} (rd : RegNum) (v : Word) (f : BitVec 5) (r : BitVec 3) (p : Word) (b : Bool) {n : DWord}
    (hn : n = u.instret ∨ n = instretNext u) :
    KeptInUserMode u (writeX rd v { u with fflags := f, frm := r, pc := p, sleeping := b, instret := n }) where
  registers := by
    constructor
    case events => exact fun n => congrArg HpmMonitor.event (monitor_congr (by simp) n)
    all_goals simp
  cycle := by simp
  hpm := by simp
  instret := by simpa using hn
  trigger := by simp

/-- A step that goes on in user mode changes no machine register. -/
theorem GoesOn.keptInUserMode {u t : State} (h : GoesOn u t) (hr : Running u) (hu : u.priv = .user) : KeptInUserMode u t := by
  cases h with
  | asleep ht =>
    subst ht
    simpa using keptInUserMode_update 0 0 t.fflags t.frm t.pc t.sleeping (.inl rfl)
  | foreign w hx ht =>
    subst ht
    obtain ⟨hc, hh⟩ := foreignStep_cycle_hpm w u
    exact ⟨(foreignStep_completes_keeps hx).1, hc, hh, .inr (foreignStep_instret w u), by simp [foreignStep_completes hx]⟩
  | csr c rd wr new ha ht =>
    obtain ⟨v, hv, rfl⟩ := csrModify_next ht
    have hflags : ∃ f r, v = { u with fflags := f, frm := r } := by
      split at hv
      · next hw =>
        obtain hc | ⟨-, hro⟩ := cls_of_user_allowed hr hu ha
        · exact csrWrite_urw hc hv
        · rw [hro] at hw; cases hw
      · cases hv; exact ⟨u.fflags, u.frm, rfl⟩
    obtain ⟨f, r, rfl⟩ := hflags
    refine keptInUserMode_update rd _ f r _ u.sleeping ?_
    split
    · exact .inl rfl
    · exact .inr rfl
  | wait ht =>
    subst ht
    simpa using keptInUserMode_update 0 0 u.fflags u.frm (nextPc u) u.draw.sleep (.inr rfl)

/-- Settles O58. -/
theorem userModeCannotChangeMachineRegisters : Obligations.UserModeCannotChangeMachineRegisters := by
  intro s t h hs ht
  obtain ⟨hr, ⟨r, -, rfl⟩ | ⟨-, htrap | ⟨-, hm, -⟩ | hgo⟩⟩ := step_mode h
  · cases ht
  · rw [htrap.priv] at ht; cases ht
  · rw [hs] at hm; cases hm
  · have hkept := hgo.keptInUserMode ⟨hr.notDebug, hr.zicsr⟩ hs
    exact ⟨(sameMachineRegisters_tick s).trans hkept.registers, hkept.cycle, hkept.hpm, hkept.instret, hkept.trigger⟩

end Sys2Proof.Machine
end

section
/-! PROOFS. The six CSR access instructions where the check passes (O15 to O20, O25) and the accesses that the check denies (O28,
O29). -/

namespace Sys2Proof.Machine

/-! ### A CSR access that passes the check (40_zicsr_access.md R220) -/

/-- A read access that passes the check: `rd` gets the value, nothing else changes. -/
theorem exec_read {i : Instr} {c : Csr} {rd : RegNum} {s : State} (hr : Running s) (hw : i.wellFormed s.cfg = true)
    (hi : Instr.access i = some (c.addr, false)) (hd : Instr.dest i = some rd) (ha : csrAllowed c false s = true) :
    exec i s = .next (writeX rd (csrRead c s) (advanced s)) := by
  obtain ⟨rd', hd', he⟩ := exec_allowed hr hw hi ha
  obtain rfl : rd = rd' := Option.some.inj (hd.symm.trans hd')
  rw [he, csrModify_eq (u := s) rfl]
  rfl

/-- A write access that passes the check and whose write is accepted: the CSR is written, `rd` gets the old value. -/
theorem exec_write {i : Instr} {c : Csr} {rd : RegNum} {s u : State} (hr : Running s) (hw : i.wellFormed s.cfg = true)
    (hi : Instr.access i = some (c.addr, true)) (hd : Instr.dest i = some rd) (ha : csrAllowed c true s = true)
    (hu : csrWrite c (Instr.newValue i s (csrRead c s)) s = .ok u) :
    exec i s = .next (writeX rd (csrRead c s)
      { u with pc := s.pc + 4, instret := if c.isInstret then u.instret else instretNext s }) := by
  obtain ⟨rd', hd', he⟩ := exec_allowed hr hw hi ha
  obtain rfl : rd = rd' := Option.some.inj (hd.symm.trans hd')
  exact he.trans (csrModify_eq (wr := true) hu)

/-- A write access that passes R28's check, to a CSR that takes writes, completes. -/
theorem exec_write_completes {i : Instr} {c : Csr} {rd : RegNum} {s : State} (hr : Running s) (hw : i.wellFormed s.cfg = true)
    (hi : Instr.access i = some (c.addr, true)) (hd : Instr.dest i = some rd) (hp : CheckPasses c.addr true s)
    (ht : isTriggerCsr c = false) (hg : isDebugCsr c = false) :
    ∃ u, csrWrite c (Instr.newValue i s (csrRead c s)) s = .ok u
      ∧ exec i s = .next (writeX rd (csrRead c s)
          { u with pc := s.pc + 4, instret := if c.isInstret then u.instret else instretNext s }) := by
  obtain ⟨u, hu⟩ := csrWrite_ok (Instr.newValue i s (csrRead c s)) s ht hg
  exact ⟨u, hu, exec_write hr hw hi hd ((csrAllowed_iff hr c true).mpr hp) hu⟩

/-- A set-bits or clear-bits form that passes R28's check: with an `rs1` or `uimm` field of 0 it only reads, else it writes
(R221). -/
theorem exec_readOrWrite {i : Instr} {c : Csr} {rd : RegNum} {f : BitVec 5} {s : State} (hr : Running s)
    (hw : i.wellFormed s.cfg = true) (hi : Instr.access i = some (c.addr, fieldWrites f)) (hd : Instr.dest i = some rd) :
    (f = 0 → CheckPasses c.addr false s → exec i s = .next (writeX rd (csrRead c s) (advanced s)))
    ∧ (f ≠ 0 → CheckPasses c.addr true s → isTriggerCsr c = false → isDebugCsr c = false →
      ∃ u, csrWrite c (Instr.newValue i s (csrRead c s)) s = .ok u
        ∧ exec i s = .next (writeX rd (csrRead c s)
            { u with pc := s.pc + 4, instret := if c.isInstret then u.instret else instretNext s })) := by
  constructor
  · intro hz hp
    rw [show fieldWrites f = false by simp [fieldWrites, hz]] at hi
    exact exec_read hr hw hi hd ((csrAllowed_iff hr c false).mpr hp)
  · intro hz hp ht hg
    rw [show fieldWrites f = true by simpa [fieldWrites] using hz] at hi
    exact exec_write_completes hr hw hi hd hp ht hg

/-- Settles O15. -/
theorem csrrwCompletes : Obligations.CsrrwCompletes :=
  fun _ _ _ _ hr hw hp ht hg => exec_write_completes hr hw rfl rfl hp ht hg

/-- Settles O16. -/
theorem csrrsCompletes : Obligations.CsrrsCompletes :=
  fun _ _ rs1 _ hr hw => exec_readOrWrite (f := rs1) hr hw rfl rfl

/-- Settles O17. -/
theorem csrrcCompletes : Obligations.CsrrcCompletes :=
  fun _ _ rs1 _ hr hw => exec_readOrWrite (f := rs1) hr hw rfl rfl

/-- Settles O18. -/
theorem csrrwiCompletes : Obligations.CsrrwiCompletes :=
  fun _ _ _ _ hr hw hp ht hg => exec_write_completes hr hw rfl rfl hp ht hg

/-- Settles O19. -/
theorem csrrsiCompletes : Obligations.CsrrsiCompletes :=
  fun _ _ uimm _ hr hw => exec_readOrWrite (f := uimm) hr hw rfl rfl

/-- Settles O20. -/
theorem csrrciCompletes : Obligations.CsrrciCompletes :=
  fun _ _ uimm _ hr hw => exec_readOrWrite (f := uimm) hr hw rfl rfl

/-- Settles O25: of the things an instruction can do, only a CSR access writes a general register. -/
theorem instructionsWriteOnlyRd : Obligations.InstructionsWriteOnlyRd := by
  intro i s t h r
  obtain ⟨-, -, hcase⟩ := exec_next h
  cases hcase with
  | illegal ht => subst ht; exact .inl rfl
  | ret _ _ ht => subst ht; exact .inl rfl
  | wait _ _ ht => subst ht; exact .inl rfl
  | csr c rd wr hi hd ha ht =>
    have hread : readX t r = readX (writeX rd (csrRead c s) s) r := readX_congr (csrModify_x ht) r
    rw [hread]
    by_cases hrd : r = rd
    · subst hrd
      by_cases hz : r = 0
      · subst hz; exact .inl (by simp)
      · exact .inr ⟨hz, hd, c, wr, hi, ha, readX_writeX_same _ s hz⟩
    · exact .inl (readX_writeX_other _ s hrd)

/-! ### A CSR access that the check denies -/

/-- The table of R24 lists the CSRs of the model, each with its address and class. -/
theorem csrTable_eq_map : csrTable = Csr.all.map fun c => (c.addr, c, c.cls) := rfl

/-- Every CSR stands in the table of R24 with its address and class. -/
theorem mem_csrTable (c : Csr) : (c.addr, c, c.cls) ∈ csrTable := by
  rw [csrTable_eq_map]
  exact List.mem_map_of_mem (csr_mem_all c)

/-- Every address of the list is above `lo` and they rise strictly. -/
def addrsRiseAbove (lo : Nat) : List CsrAddr → Bool
  | [] => true
  | a :: rest => decide (lo < a.toNat) && addrsRiseAbove a.toNat rest

/-- Addresses that rise above a bound are above it. -/
theorem lt_of_addrsRiseAbove {lo : Nat} {l : List CsrAddr} (h : addrsRiseAbove lo l = true) {a : CsrAddr} (ha : a ∈ l) :
    lo < a.toNat := by
  induction l generalizing lo with
  | nil => cases ha
  | cons b rest ih =>
    simp only [addrsRiseAbove, Bool.and_eq_true, decide_eq_true_eq] at h
    obtain ⟨hb, hrest⟩ := h
    cases ha with
    | head => exact hb
    | tail _ hm => exact Nat.lt_trans hb (ih hrest hm)

/-- Addresses that rise strictly are different. -/
theorem nodup_of_addrsRiseAbove {lo : Nat} {l : List CsrAddr} (h : addrsRiseAbove lo l = true) : l.Nodup := by
  induction l generalizing lo with
  | nil => exact List.nodup_nil
  | cons b rest ih =>
    simp only [addrsRiseAbove, Bool.and_eq_true, decide_eq_true_eq] at h
    exact List.nodup_cons.mpr ⟨fun hm => Nat.lt_irrefl _ (lt_of_addrsRiseAbove h.2 hm), ih h.2⟩

/-- The addresses of the table rise, so that none stands in it twice. -/
theorem csrTable_nodup : (csrTable.map fun r => r.1).Nodup := nodup_of_addrsRiseAbove (lo := 0) rfl

/-- An address outside the table fails the check, as no CSR has it. -/
theorem csrCheck_unlisted {a : CsrAddr} (h : a ∉ csrTable.map fun r => r.1) (wr : Bool) (s : State) :
    csrCheck a wr s = false := by
  unfold csrCheck
  split
  · rfl
  · next c hc =>
    obtain rfl := csrOfAddr_addr_eq hc
    exact absurd (List.mem_map.mpr ⟨_, mem_csrTable c, rfl⟩) h

/-- Settles O28. -/
theorem unlistedCsrTraps : Obligations.UnlistedCsrTraps :=
  ⟨mem_csrTable, rfl, csrTable_nodup, fun _ _ wr s hr hw hi ha => exec_denied hr hw hi (csrCheck_unlisted ha wr s)⟩

/-- A CSR whose extension the configuration lacks fails the check (10_state.md R26). -/
theorem csrAllowed_unconfigured {c : Csr} {wr : Bool} {s : State} (h : c.extension.configured s.cfg = false) :
    csrAllowed c wr s = false := by
  rw [← existsIn_eq_configured] at h
  simp [csrAllowed, h]

/-- Outside debug mode a debug CSR fails the check (R141). -/
theorem csrAllowed_debug {c : Csr} {wr : Bool} {s : State} (hr : Running s) (h : c.cls = .drw) : csrAllowed c wr s = false := by
  simp [csrAllowed, h, hr.notDebug]

/-- Settles O29: an address that passes the check names a CSR, whose extension its address tells. -/
theorem disabledCsrTraps : Obligations.DisabledCsrTraps := by
  intro i a wr s hr hw hi hdisabled
  refine exec_denied hr hw hi ?_
  unfold csrCheck
  split
  · rfl
  · next c hc =>
    obtain rfl := csrOfAddr_addr_eq hc
    obtain ⟨-, hzfinx, huser, hsmpmp, hzicntr, hzihpm, hsdtrig, -⟩ := addr_extension_iff c
    rw [hzfinx, huser, hsmpmp, hzicntr, hzihpm, hsdtrig, mem_debug_iff] at hdisabled
    obtain ⟨hx, hn⟩ | ⟨hx, hn⟩ | ⟨hx, hn⟩ | ⟨hx, hn⟩ | ⟨hx, hn⟩ | ⟨hx, hn⟩ | hdebug := hdisabled
    case inr.inr.inr.inr.inr.inr => exact csrAllowed_debug hr hdebug
    all_goals exact csrAllowed_unconfigured (by rw [hx]; exact hn)

end Sys2Proof.Machine
end

section
/-! PROOFS. Traps and the privileged instructions (O10 to O12, O21 to O23, O40, O53) and the denied fetch (O7). -/

namespace Sys2Proof.Machine

/-! ### Where a trap goes (10_state.md R52) -/

/-- The number that two bit vectors side by side stand for. -/
theorem toNat_append_eq_add {m n : Nat} (x : BitVec m) (y : BitVec n) : (x ++ y).toNat = x.toNat * 2 ^ n + y.toNat := by
  rw [BitVec.toNat_append, ← Nat.shiftLeft_add_eq_or_of_lt y.isLt, Nat.shiftLeft_eq]

/-- The base of the trap handler is `mtvec` with its mode field cleared (R50). -/
theorem trapBase_eq_append (s : State) : trapBase s = s.mtvec.extractLsb' 2 30 ++ 0b00#2 := by
  apply BitVec.eq_of_getLsbD_eq
  intro k hk
  have hmask : (0xFFFFFFFC : Word) = ~~~BitVec.ofNat 32 (2 ^ 2 - 1) := rfl
  change _ = BitVec.getLsbD (w := 30 + 2) (_ ++ _) k
  rw [BitVec.getLsbD_append, trapBase, hmask, BitVec.getLsbD_and, BitVec.getLsbD_not, BitVec.getLsbD_ofNat,
    Nat.testBit_two_pow_sub_one]
  by_cases h : k < 2
  · simp [h]
  · simp [h, hk, show k - 2 < 30 by omega, show 2 + (k - 2) = k by omega]

/-- A vector above five zero bits and a clear mode field. -/
theorem extractLsb'_two_eq_append {v : Word} (h : v.extractLsb' 2 5 = 0) : v.extractLsb' 2 30 = v.extractLsb' 7 25 ++ 0#5 := by
  rw [show 0#5 = v.extractLsb' 2 5 from h.symm]
  exact (BitVec.extractLsb'_append_extractLsb'_eq_extractLsb' (start₁ := 2) (len₁ := 5) (len₂ := 25) rfl).symm

/-- The offset of a vector, added to a base aligned to 128 bytes, takes the place of bits 6:2 with no carry (R52). -/
theorem aligned_base_add_vector (b : BitVec 25) (code : BitVec 5) :
    ((b ++ 0#5) ++ 0b00#2 : BitVec 32) + (code.setWidth 32 <<< 2) = b ++ code ++ 0b00#2 := by
  apply BitVec.eq_of_toNat_eq
  have hb := b.isLt
  have hc := code.isLt
  simp only [BitVec.toNat_add, toNat_append_eq_add, BitVec.toNat_shiftLeft, BitVec.toNat_setWidth, BitVec.toNat_ofNat,
    Nat.shiftLeft_eq]
  omega

/-- Settles O10. -/
theorem trapTargetAddress : Obligations.TrapTargetAddress := by
  intro interrupt code epc mtval mtinst s hlegal
  rw [trapEntry_pc, trapTarget, trapBase_eq_append]
  by_cases hdirect : s.mtvec.extractLsb' 0 2 = 0b00#2
  · simp [hdirect]
  · obtain ⟨hmode, hbase⟩ : s.mtvec.extractLsb' 0 2 = 1 ∧ s.mtvec.extractLsb' 2 5 = 0 := by
      simpa [mtvecLegal, hdirect] using hlegal
    rw [if_neg hdirect]
    cases interrupt with
    | false => simp
    | true =>
      rw [if_pos ⟨hmode, rfl⟩, if_pos rfl, extractLsb'_two_eq_append hbase]
      exact aligned_base_add_vector _ code

/-! ### What an entry records (60_exceptions.md R281 to R284) -/

/-- Taking a trap, every field of the state written out. -/
theorem trapEntry_eq (interrupt : Bool) (code : BitVec 5) (epc mtval mtinst : Word) (s : State) :
    trapEntry interrupt code epc mtval mtinst s =
      { s with
        mepc := epc &&& (if s.cfg.extC then 0xFFFFFFFE else 0xFFFFFFFC)
        mcause := { interrupt := interrupt, code := code }
        mstatus :=
          { mie := false
            mpie := s.mstatus.mie
            mpp := if s.cfg.extU && s.priv == .user then .user else .machine
            mprv := s.mstatus.mprv
            tw := s.mstatus.tw }
        priv := .machine
        pc := trapTarget s interrupt code
        mtval := mtval
        mtinst := mtinst } := by
  rw [← legalMpp_privBits]
  rfl

/-- The code of a source is its bit in `mie` and `mip` (R272). -/
theorem irqSource_code_eq (i : IrqSource) : IrqSource.code i = BitVec.ofNat 5 (irqBit i) := by
  cases i <;> rfl

/-- A source's bit fits the code field. -/
theorem irqBit_lt (i : IrqSource) : irqBit i < 32 := by
  cases i with
  | firq n => exact Nat.add_lt_add_left n.isLt 16
  | _ => simp [irqBit]

/-- What `mcause` reads after an interrupt (10_state.md R63). -/
theorem mcauseWord_interrupt (i : IrqSource) :
    mcauseWord { interrupt := true, code := BitVec.ofNat 5 (irqBit i) } = 0x80000000 ||| BitVec.ofNat 32 (irqBit i) := by
  have hcode : (BitVec.ofNat 5 (irqBit i)).setWidth 32 = BitVec.ofNat 32 (irqBit i) := by
    apply BitVec.eq_of_toNat_eq
    have := irqBit_lt i
    simp only [BitVec.toNat_setWidth, BitVec.toNat_ofNat]
    omega
  rw [mcauseWord, hcode]
  rfl

/-- Each bit of `mip` reads the request line of its source (10_state.md R70). -/
theorem getLsbD_mipWord (l : IrqLines) : ∀ k, k < 32 →
    (mipWord l).getLsbD k =
      match k with
      | 3 => l.msi
      | 7 => l.mti
      | 11 => l.mei
      | _ => decide (16 ≤ k) && l.firq.getLsbD (k - 16) := by
  intro k hk
  rw [mipWord, BitVec.getLsbD_or, getLsbD_wordOfBits]
  split
  case h_4 =>
    by_cases h16 : k < 16
    · simp_all [show ¬ 16 ≤ k by omega]
    · simp_all [show 16 ≤ k by omega]
  all_goals simp

/-- Settles O11. -/
theorem interruptEntryRecords : Obligations.InterruptEntryRecords := by
  intro i s
  refine ⟨?_, ?_, rfl, rfl, getLsbD_mipWord s.mip⟩
  · rw [← irqSource_code_eq]
    exact trapEntry_eq ..
  · rw [← mcauseWord_interrupt, ← irqSource_code_eq]
    rfl

/-- Settles O12. -/
theorem illegalInstructionEntry : Obligations.IllegalInstructionEntry := by
  intro i s
  have hinsn : mtinstOf (encode i) s = encode i := by simp [mtinstOf]
  have hcause : mcauseWord { interrupt := false, code := 2 } = 0x00000002 := by decide
  refine ⟨?_, hcause, rfl, rfl, hinsn⟩
  rw [raiseIllegal, raiseException, hinsn, trapEntry_eq]
  rfl

/-- Settles O40. -/
theorem mepcHardwiredBits : Obligations.MepcHardwiredBits := by
  intro interrupt code v mtval mtinst s u hu
  cases hu
  exact ⟨rfl, rfl⟩

/-! ### `mret` and `wfi` (41_trap_return_and_wait.md R250 to R252) -/

/-- On a running hart `mret` returns in machine mode and is illegal elsewhere. -/
theorem exec_mret {s : State} (h : Running s) :
    exec .mret s = .next (if s.priv = .machine then trapReturn (countInstr s) else raiseIllegal .mret s) :=
  inScope_running h rfl

/-- On a running hart `wfi` waits, but where user mode may not. -/
theorem exec_wfi {s : State} (h : Running s) :
    exec .wfi s = .next
      (if s.priv = .user ∧ s.mstatus.tw then raiseIllegal .wfi s
        else { countInstr s with pc := nextPc s, sleeping := s.draw.sleep }) :=
  inScope_running h rfl

/-- Settles O21. -/
theorem mretCompletes : Obligations.MretCompletes := by
  intro s h hm
  have hmpp : legalMpp s.cfg 0b00 = if s.cfg.extU then .user else .machine := by simp [legalMpp]
  rw [exec_mret h, if_pos hm, ← hmpp]
  rfl

/-- Settles O22. -/
theorem wfiCompletes : Obligations.WfiCompletes := by
  intro s h hmay
  rw [exec_wfi h, if_neg]
  · rfl
  · rintro ⟨hu, htw⟩
    simp [hu, htw] at hmay

/-- Settles O23. -/
theorem privilegedInstructionsTrapInUserMode : Obligations.PrivilegedInstructionsTrapInUserMode := by
  intro s h hu
  refine ⟨?_, fun htw => ?_⟩
  · rw [exec_mret h, if_neg (by simp [hu])]
  · rw [exec_wfi h, if_pos ⟨hu, htw⟩]

/-- Settles O53. -/
theorem effectivePrivilegeOfAccesses : Obligations.EffectivePrivilegeOfAccesses :=
  fun _ => ⟨rfl, rfl, rfl⟩

/-! ### A fetch that the PMP denies (20_memory.md R174) -/

/-- The halfword of two bytes that have values. -/
theorem readHalf_eq {s : State} {a : Word} {b0 b1 : Byte} (h0 : s.readByte a.toNat = some b0)
    (h1 : s.readByte (a + 1).toNat = some b1) : readHalf s a = .ok (b1 ++ b0) := by
  simp only [readHalf, h0, h1]

/-- The two lowest bits of a halfword are those of its first byte. -/
theorem lowBits_half (b0 b1 : Byte) : (b1 ++ b0).extractLsb' 0 2 = b0.extractLsb' 0 2 :=
  BitVec.extractLsb'_append_eq_of_add_le (by omega)

/-- The two lowest bits of a compressed instruction word are those of its first byte. -/
theorem lowBits_setWidth_half (b0 b1 : Byte) : ((b1 ++ b0).setWidth 32).extractLsb' 0 2 = b0.extractLsb' 0 2 := by
  rw [← lowBits_half b0 b1]
  apply BitVec.eq_of_getLsbD_eq
  intro k hk
  simp [show k < 32 by omega]

/-- The two lowest bits of a word of four bytes are those of its first byte. -/
theorem lowBits_word (b0 b1 b2 b3 : Byte) : (b3 ++ b2 ++ b1 ++ b0).extractLsb' 0 2 = b0.extractLsb' 0 2 :=
  BitVec.extractLsb'_append_eq_of_add_le (by omega)

/-- A fetch fails where the PMP denies the two lowest bytes. -/
theorem fetch_denied_half {s : State} (h : pmpAllows .fetch s.pc 2 s = false) : fetch s = .accessFault := by
  simp [fetch, h]

/-- A fetch fails where the first two bytes are those of a 32-bit instruction and the PMP denies its four bytes. -/
theorem fetch_denied_word {s : State} {b0 b1 : Byte} (h0 : s.readByte s.pc.toNat = some b0)
    (h1 : s.readByte (s.pc + 1).toNat = some b1) (hlong : s.cfg.extC = false ∨ b0.extractLsb' 0 2 = 0b11#2)
    (h : pmpAllows .fetch s.pc 4 s = false) : fetch s = .accessFault := by
  have hnot : (s.cfg.extC && (b1 ++ b0).extractLsb' 0 2 != 0b11#2) = false := by
    rw [lowBits_half]
    obtain hc | hb := hlong
    · simp [hc]
    · simp [hb]
  unfold fetch
  split
  · rw [readHalf_eq h0 h1]
    simp only [hnot]
    simp [fetchSecond, h]
  · rfl

/-- With the C extension, two bytes whose lowest bits are not 11 are the instruction at the pc. -/
theorem insnAtPc_compressed {s : State} {b0 b1 : Byte} (h0 : s.readByte s.pc.toNat = some b0)
    (h1 : s.readByte (s.pc + 1).toNat = some b1) (hc : s.cfg.extC = true) (hb : b0.extractLsb' 0 2 ≠ 0b11#2) :
    insnAtPc s = .ok ((b1 ++ b0).setWidth 32) := by
  simp [insnAtPc, readHalf_eq h0 h1, lowBits_half, hc, hb]

/-- Four bytes whose lowest bits are 11 are the instruction at the pc. -/
theorem insnAtPc_word {s : State} {b0 b1 b2 b3 : Byte} (h0 : s.readByte s.pc.toNat = some b0)
    (h1 : s.readByte (s.pc + 1).toNat = some b1) (h2 : s.readByte (s.pc + 2).toNat = some b2)
    (h3 : s.readByte (s.pc + 2 + 1).toNat = some b3) (hb : b0.extractLsb' 0 2 = 0b11#2) :
    insnAtPc s = .ok (b3 ++ b2 ++ b1 ++ b0) := by
  have hassoc : (b3 ++ b2) ++ (b1 ++ b0) = b3 ++ b2 ++ b1 ++ b0 := BitVec.append_assoc'
  have hlong : (s.cfg.extC && (b1 ++ b0).extractLsb' 0 2 != 0b11#2) = false := by simp [lowBits_half, hb]
  simp only [insnAtPc, readHalf_eq h0 h1, readHalf_eq h2 h3, hlong]
  rw [← hassoc]
  rfl

/-- The access fault of a failed fetch is the exception of code 1; only the count may move besides (R271, R281 to R283). -/
theorem raiseFetchFault_entered (s : State) :
    EnteredException 1 s (raiseFetchFault s) ∧ (raiseFetchFault s).fflags = s.fflags
      ∧ ((raiseFetchFault s).instret = s.instret ∨ (raiseFetchFault s).instret = instretNext s) := by
  unfold raiseFetchFault
  rw [trapEntry_eq]
  split
  · exact ⟨by constructor <;> rfl, rfl, .inr rfl⟩
  · exact ⟨by constructor <;> rfl, rfl, .inl rfl⟩

/-- `mtinst` after a failed fetch (R284). -/
theorem raiseFetchFault_mtinst (s : State) : (raiseFetchFault s).mtinst = fetchFaultMtinst s := rfl

/-- A failed fetch of a 32-bit instruction that stands in memory records its word (10_state.md R67). -/
theorem raiseFetchFault_recordsWord {s : State} {w : Word} (hw : insnAtPc s = .ok w) (hb : w.extractLsb' 0 2 = 0b11#2) :
    RecordsInsn w (raiseFetchFault s) := by
  refine ⟨fun _ => ?_, fun _ hn => absurd hb hn⟩
  rw [raiseFetchFault_mtinst]
  simp [fetchFaultMtinst, hw, mtinstOf, hb]

/-- A failed fetch of a compressed instruction that stands in memory records its expansion (10_state.md R67). -/
theorem raiseFetchFault_recordsCompressed {s : State} {w : Word} (hw : s.cfg.extC = true → insnAtPc s = .ok w)
    (hb : w.extractLsb' 0 2 ≠ 0b11#2) : RecordsInsn w (raiseFetchFault s) := by
  refine ⟨fun h => absurd h hb, fun hc _ => ?_⟩
  rw [(raiseFetchFault_keeps_cfg s).1] at hc
  rw [raiseFetchFault_mtinst]
  simp [fetchFaultMtinst, hw hc, mtinstOf, hb, hc, lowHalf]

/-- Settles O7. -/
theorem deniedFetchTakesAccessFault : Obligations.DeniedFetchTakesAccessFault := by
  intro s hrun hr hs hn hdenied
  have hfetch : fetch (tick s) = .accessFault := by
    obtain h | ⟨b0, b1, h0, h1, hlong, h⟩ := hdenied
    · exact fetch_denied_half (s := tick s) h
    · exact fetch_denied_word (s := tick s) h0 h1 hlong h
  have hstep : step s = .next (raiseFetchFault (tick s)) := by
    rw [step_awake hrun hr hs]
    simp only [boundary, hn, runInstruction, hfetch]
  obtain ⟨hentered, hflags, hcount⟩ := raiseFetchFault_entered (tick s)
  refine ⟨_, hstep, hentered.of_tick, hflags, hcount, fun b0 b1 h0 h1 => ⟨fun hb => ?_, fun b2 b3 h2 h3 hb => ?_⟩⟩
  · refine raiseFetchFault_recordsCompressed (fun hc => insnAtPc_compressed (s := tick s) h0 h1 hc hb) ?_
    rwa [lowBits_setWidth_half]
  · refine raiseFetchFault_recordsWord (insnAtPc_word (s := tick s) h0 h1 h2 h3 hb) ?_
    rwa [lowBits_word]

end Sys2Proof.Machine
end

section
/-! PROOFS. CSRs that ignore writes or read zero (O32, O33), the user-mode views of the counters (O43, O44) and `mcycle[h]`
(O45). -/

namespace Sys2Proof.Machine

/-! ### CSRs that ignore writes (10_state.md R27, R29) -/

/-- A write to a register of a monitor that is not real changes no monitor (11 R119). -/
theorem hpmAfter_surplus {j : Nat} {s : State} (h : monitorReal s.cfg j = false) (f : HpmMonitor → HpmMonitor) :
    hpmAfter j f s = s.hpm := by
  simp [hpmAfter, h, ofFn_monitor]

/-- A write to the configuration bytes of regions that are not implemented changes no region (11 R103, R27). -/
theorem pmpAfterCfg_surplus {k : Nat} {s : State} (h : s.cfg.pmpNumRegions ≤ 4 * k) (v : Word) : pmpAfterCfg k v s = s.pmp := by
  rw [← ofFn_region s, pmpAfterCfg]
  congr 1
  funext i
  exact if_neg (by omega)

/-- A write to the address of a region that is not implemented changes no region (11 R108, R27). -/
theorem pmpAfterAddr_surplus {j : Nat} {s : State} (h : s.cfg.pmpNumRegions ≤ j) (v : Word) : pmpAfterAddr j v s = s.pmp := by
  rw [← ofFn_region s, pmpAfterAddr]
  congr 1
  funext i
  exact if_neg fun hw => absurd (lt_of_pmpaddrWritable hw.2) (by omega)

/-- A write to a CSR of R29's list changes nothing. -/
theorem csrWrite_ignored {c : Csr} {s : State} (v : Word) (h : ignoresWrites s.cfg c = true) : csrWrite c v s = .ok s := by
  cases c with
  | misa | mstatush | menvcfg | menvcfgh | mcause | mtval | mtinst | mip | mxcsr => rfl
  | pmpcfg k => rw [csrWrite, pmpAfterCfg_surplus (of_decide_eq_true h)]
  | pmpaddr i => rw [csrWrite, pmpAfterAddr_surplus (of_decide_eq_true h)]
  | mhpmevent n | mhpmcounter n | mhpmcounterh n =>
    rw [csrWrite, hpmAfter_surplus]
    simpa [ignoresWrites] using h
  | _ => cases h

/-- The CSRs of R29's list are of class MRW. -/
theorem cls_of_ignoresWrites {c : Csr} {cfg : Cfg} (h : ignoresWrites cfg c = true) : c.cls = .mrw := by
  cases c with
  | fflags | frm | fcsr | dcsr | dpc | dscratch0 => cases h
  | cycle | instret | cycleh | instreth | mvendorid | marchid | mimpid | mhartid | mconfigptr | mxisa => cases h
  | _ => rfl

/-- The CSRs of R29's list are not `minstret[h]`. -/
theorem isInstret_of_ignoresWrites {c : Csr} {cfg : Cfg} (h : ignoresWrites cfg c = true) : c.isInstret = false := by
  cases c with
  | minstret | minstreth => cases h
  | _ => rfl

/-- Machine mode may read and write every CSR of class MRW that exists (R28). -/
theorem csrAllowed_mrw {c : Csr} {s : State} (hm : s.priv = .machine) (hc : c.cls = .mrw) (hx : c.existsIn s.cfg = true)
    (wr : Bool) : csrAllowed c wr s = true := by
  simp [csrAllowed, hm, hc, hx, AccessClass.readOnly]

/-- Settles O32: the access passes the check, and its write, if it makes one, changes nothing. -/
theorem writeIgnoringCsrsKeepEverything : Obligations.WriteIgnoringCsrsKeepEverything := by
  intro i c rd wr s hr hw hi hd hm hx hign
  have ha : csrAllowed c wr s = true := csrAllowed_mrw hm (cls_of_ignoresWrites hign) hx wr
  cases wr with
  | false => exact exec_read hr hw hi hd ha
  | true =>
    rw [exec_write hr hw hi hd ha (csrWrite_ignored _ hign), isInstret_of_ignoresWrites hign]
    rfl

/-! ### CSRs that read zero -/

/-- A region that is not implemented shows a configuration byte of 0 (11 R101). -/
theorem cfgByte_surplus {s : State} {i : Nat} (h : s.cfg.pmpNumRegions ≤ i) : cfgByte s i = 0 := if_neg (by omega)

/-- The configuration bytes of regions that are not implemented read 0 (11 R101). -/
theorem pmpcfgWord_surplus {s : State} {k : Nat} (h : s.cfg.pmpNumRegions ≤ 4 * k) : pmpcfgWord s k = 0 := by
  rw [pmpcfgWord, cfgByte_surplus (by omega), cfgByte_surplus (by omega), cfgByte_surplus (by omega), cfgByte_surplus h]
  rfl

/-- The address of a region that is not implemented reads 0 (11 R107). -/
theorem pmpaddrWord_surplus {s : State} {i : Nat} (h : s.cfg.pmpNumRegions ≤ i) : pmpaddrWord s i = 0 := if_neg (by omega)

/-- The registers of a monitor that is not real read 0 (11 R119). -/
theorem monitor_surplus_reads {s : State} {n : Fin 13} (h : s.cfg.hpmNumCnts ≤ n.val) :
    csrRead (.mhpmevent n) s = 0 ∧ csrRead (.mhpmcounter n) s = 0 ∧ csrRead (.mhpmcounterh n) s = 0 := by
  have hreal : monitorReal s.cfg n.val = false := decide_eq_false (by omega)
  simp [csrRead, hpmEventWord, hpmValue, hreal, lowWord, highWord]

/-- Settles O33. -/
theorem surplusCsrsReadZero : Obligations.SurplusCsrsReadZero :=
  fun _ => ⟨fun _ => pmpcfgWord_surplus, fun _ => pmpaddrWord_surplus, fun _ => monitor_surplus_reads, rfl, rfl, rfl⟩

/-! ### The user-mode views of the counters (11 R115, R116) -/

/-- An access to a CSR that passes the check if it is a read and not denied for another reason. -/
theorem exec_readOnlyView {i : Instr} {c : Csr} {rd : RegNum} {wr : Bool} {denied : Prop} [Decidable denied] {s : State}
    (hr : Running s) (hw : i.wellFormed s.cfg = true) (hi : Instr.access i = some (c.addr, wr)) (hd : Instr.dest i = some rd)
    (ha : csrAllowed c wr s = true ↔ ¬ (wr = true ∨ denied)) :
    exec i s = .next (if wr = true ∨ denied then raiseIllegal i s else writeX rd (csrRead c s) (advanced s)) := by
  split
  · next hn =>
    refine exec_denied hr hw hi ?_
    rw [csrCheck, csrOfAddr_addr]
    simpa [hn] using ha
  · next hn =>
    obtain rfl : wr = false := by simpa using mt Or.inl hn
    exact exec_read hr hw hi hd (ha.mpr hn)

/-- The check of a view of the cycle counter (R28, R115). -/
theorem csrAllowed_cycle_iff {c : Csr} {s : State} (hr : Running s) (hc : c = .cycle ∨ c = .cycleh)
    (hz : s.cfg.extZicntr = true) (wr : Bool) :
    csrAllowed c wr s = true ↔ ¬ (wr = true ∨ (s.priv = .user ∧ s.mcounteren.cy = false)) := by
  obtain rfl | rfl := hc <;> cases hp : s.priv <;>
    simp [csrAllowed, Csr.existsIn, Csr.cls, AccessClass.readOnly, hz, hp, hr.notDebug, and_comm]

/-- The check of a view of the instruction counter (R28, R116). -/
theorem csrAllowed_instret_iff {c : Csr} {s : State} (hr : Running s) (hc : c = .instret ∨ c = .instreth)
    (hz : s.cfg.extZicntr = true) (wr : Bool) :
    csrAllowed c wr s = true ↔ ¬ (wr = true ∨ (s.priv = .user ∧ s.mcounteren.ir = false)) := by
  obtain rfl | rfl := hc <;> cases hp : s.priv <;>
    simp [csrAllowed, Csr.existsIn, Csr.cls, AccessClass.readOnly, hz, hp, hr.notDebug, and_comm]

/-- Settles O43. -/
theorem cycleIsReadOnlyShadow : Obligations.CycleIsReadOnlyShadow := by
  intro i rd wr s hr hw hz hd hi
  obtain hi | hi := hi
  · rw [exec_readOnlyView (c := .cycle) hr hw hi hd (csrAllowed_cycle_iff hr (.inl rfl) hz wr), if_pos hi]
    rfl
  · have hother : Instr.access i ≠ some (0xc00, wr) := by simp [hi]
    rw [exec_readOnlyView (c := .cycleh) hr hw hi hd (csrAllowed_cycle_iff hr (.inr rfl) hz wr), if_neg hother]
    rfl

/-- Settles O44. -/
theorem instretIsReadOnlyShadow : Obligations.InstretIsReadOnlyShadow := by
  intro i rd wr s hr hw hz hd hi
  obtain hi | hi := hi
  · rw [exec_readOnlyView (c := .instret) hr hw hi hd (csrAllowed_instret_iff hr (.inl rfl) hz wr), if_pos hi]
    rfl
  · have hother : Instr.access i ≠ some (0xc02, wr) := by simp [hi]
    rw [exec_readOnlyView (c := .instreth) hr hw hi hd (csrAllowed_instret_iff hr (.inr rfl) hz wr), if_neg hother]
    rfl

/-! ### `mcycle` and `mcycleh` (11 R111, R112) -/

/-- Settles O45: machine mode may write both words, which user mode may not access. -/
theorem mcycleWords : Obligations.McycleWords := by
  intro rd rs1 s hr hw hz
  refine ⟨fun hm => ⟨?_, ?_⟩, fun hu => ⟨?_, ?_⟩⟩
  · have ha : csrAllowed .mcycle true s = true := csrAllowed_mrw (c := .mcycle) hm rfl hz true
    exact exec_write (c := .mcycle) (u := { s with cycle := withLowWord s.cycle (readX s rs1) }) hr hw rfl rfl ha rfl
  · have ha : csrAllowed .mcycleh true s = true := csrAllowed_mrw (c := .mcycleh) hm rfl hz true
    exact exec_write (c := .mcycleh) (u := { s with cycle := withHighWord s.cycle (readX s rs1) }) hr hw rfl rfl ha rfl
  · exact machineCsrTrapsInUserMode (.csrrw rd 0xb00 rs1) .mcycle true s hr hw rfl hu rfl
  · exact machineCsrTrapsInUserMode (.csrrw rd 0xb80 rs1) .mcycleh true s hr hw rfl hu rfl

end Sys2Proof.Machine
end

section
/-! PROOFS. What CSRs read and what their own writes leave (O35, O38, O39, O41, O42). -/

namespace Sys2Proof.Machine

/-! ### `misa` (10_state.md R47) and `mstatus` (R40 to R42) -/

/-- Settles O35. -/
theorem misaReadsConfiguration : Obligations.MisaReadsConfiguration := by
  intro s v
  refine ⟨rfl, rfl, rfl, rfl, fun k hk => ?_⟩
  have hfixed : (0x40800000 : Word) = wordOfBits [(23, true), (30, true)] := rfl
  rw [csrRead, misaWord, hfixed, BitVec.getLsbD_or, getLsbD_wordOfBits, getLsbD_wordOfBits]
  split
  case h_10 => simp_all
  all_goals simp

/-- The MPP field as it reads: both bits of it are set for machine mode (R22). -/
theorem mppField_eq (p : Priv) :
    (privBits p).setWidth 32 <<< 11 = wordOfBits [(11, p == .machine), (12, p == .machine)] := by
  cases p <;> rfl

/-- Which bit of `mstatus` reads which field. -/
theorem getLsbD_mstatusWord (m : MStatus) : ∀ k, k < 32 →
    (mstatusWord m).getLsbD k =
      match k with
      | 3 => m.mie
      | 7 => m.mpie
      | 11 => m.mpp == .machine
      | 12 => m.mpp == .machine
      | 17 => m.mprv
      | 21 => m.tw
      | _ => false := by
  intro k hk
  simp only [mstatusWord, mppField_eq, BitVec.getLsbD_or, getLsbD_bitAt, getLsbD_wordOfBits]
  split
  case h_7 => simp_all
  all_goals simp

/-- A written MPP field is 00 if and only if neither of its bits is set. -/
theorem mppField_eq_zero (v : Word) : (v.extractLsb' 11 2 == 0) = !(v.getLsbD 11 || v.getLsbD 12) := by
  rw [Bool.eq_iff_iff, beq_iff_eq, Bool.not_eq_true', Bool.or_eq_false_iff]
  constructor
  · intro h
    exact ⟨by simpa using congrArg (·.getLsbD 0) h, by simpa using congrArg (·.getLsbD 1) h⟩
  · intro ⟨h11, h12⟩
    apply BitVec.eq_of_getLsbD_eq
    intro k hk
    obtain rfl | rfl : k = 0 ∨ k = 1 := by omega
    · simpa using h11
    · simpa using h12

/-- `mstatus` after a write, bit by bit of the value written. -/
theorem mstatusWord_ofWord (c : Cfg) (v : Word) :
    mstatusWord (mstatusOfWord c v) =
      if c.extU then (v &&& 0x00220088) ||| (if v.getLsbD 11 || v.getLsbD 12 then 0x00001800 else 0x00000000)
      else (v &&& 0x00000088) ||| 0x00001800 := by
  have huser : (0x00220088 : Word) = wordOfBits [(3, true), (7, true), (17, true), (21, true)] := rfl
  have hmachine : (0x00000088 : Word) = wordOfBits [(3, true), (7, true)] := rfl
  have hmpp : (0x00001800 : Word) = wordOfBits [(11, true), (12, true)] := rfl
  apply BitVec.eq_of_getLsbD_eq
  intro k hk
  rw [getLsbD_mstatusWord _ k hk, huser, hmachine, hmpp]
  cases hu : c.extU with
  | false =>
    simp only [mstatusOfWord, legalMpp, hu, Bool.false_and, Bool.false_eq_true, if_false, BitVec.getLsbD_or, BitVec.getLsbD_and,
      getLsbD_wordOfBits]
    split
    case h_7 => simp_all
    all_goals simp
  | true =>
    simp only [mstatusOfWord, legalMpp, hu, mppField_eq_zero, Bool.true_and, if_true]
    cases v.getLsbD 11 || v.getLsbD 12
    all_goals
      simp only [Bool.not_true, Bool.not_false, Bool.false_eq_true, if_true, if_false, BitVec.getLsbD_or, BitVec.getLsbD_and,
        getLsbD_wordOfBits]
      split
      case h_7 => simp_all
      all_goals simp

/-- Settles O38. -/
theorem mstatusWriteIsLegalised : Obligations.MstatusWriteIsLegalised := by
  refine ⟨fun s => getLsbD_mstatusWord s.mstatus, fun v s u hu => ?_⟩
  cases hu
  exact mstatusWord_ofWord s.cfg v

/-! ### `mtvec` (10_state.md R50, R51) -/

/-- The legal values of `mtvec`: DIRECT mode, or VECTORED mode with a base aligned to 128 bytes. -/
theorem mtvecLegal_iff (v : Word) :
    mtvecLegal v = true ↔ v.extractLsb' 0 2 = 0b00#2 ∨ (v.extractLsb' 0 2 = 0b01#2 ∧ v.extractLsb' 2 5 = 0) := by
  simp [mtvecLegal]

/-- Settles O39. -/
theorem mtvecWriteLeavesLegalValue : Obligations.MtvecWriteLeavesLegalValue := by
  intro v s u hu
  cases hu
  refine ⟨fun h => ?_, ?_⟩
  · exact if_pos ((mtvecLegal_iff v).mpr h)
  · exact (mtvecLegal_iff _).mp (mtvecLegal_mtvecAfter s.draw v)

/-! ### Masked values (10_state.md R49, R56, R60, 11 R127) -/

/-- `mcounteren` reads CY at bit 0 and IR at bit 2. -/
theorem mcounterenWord_eq (m : MCounteren) : mcounterenWord m = (if m.cy then 1 else 0) ||| (if m.ir then 4 else 0) := by
  obtain ⟨cy, ir⟩ := m
  cases cy <;> cases ir <;> rfl

/-- `mcounteren` keeps the two written bits that exist. -/
theorem mcounterenWord_ofWord (v : Word) : mcounterenWord { cy := v.getLsbD 0, ir := v.getLsbD 2 } = v &&& 0x00000005 := by
  apply BitVec.eq_of_getLsbD_eq
  intro k hk
  have hmask : (0x00000005 : Word) = wordOfBits [(0, true), (2, true)] := rfl
  rw [mcounterenWord, hmask, BitVec.getLsbD_and, getLsbD_wordOfBits, getLsbD_wordOfBits]
  by_cases h0 : k = 0
  · simp [h0]
  · by_cases h2 : k = 2
    · simp [h2]
    · simp [h0, h2]

/-- Settles O41. -/
theorem maskedCsrWrites : Obligations.MaskedCsrWrites := by
  intro v s
  refine ⟨⟨rfl, rfl, rfl, rfl, rfl, mcounterenWord_eq s.mcounteren⟩, ?_, ?_, ?_, ?_⟩
  all_goals intro u hu; cases hu
  · rfl
  · rfl
  · exact mcounterenWord_ofWord v
  · rfl

/-! ### `fcsr` (10_state.md R36 to R38) -/

/-- The rounding mode above the flags, as shift and union of their own views. -/
theorem fcsr_append_eq (r : BitVec 3) (f : BitVec 5) :
    (r ++ f).setWidth 32 = (r.setWidth 32 <<< 5) ||| f.setWidth 32 := by
  apply BitVec.eq_of_getLsbD_eq
  intro k hk
  rw [BitVec.getLsbD_setWidth, BitVec.getLsbD_append, BitVec.getLsbD_or, BitVec.getLsbD_shiftLeft, BitVec.getLsbD_setWidth,
    BitVec.getLsbD_setWidth]
  by_cases h : k < 5
  · simp [h]
  · simp [h, hk, show k - 5 < 32 by omega, BitVec.getLsbD_of_ge f k (by omega)]

/-- A field cut from the low end of a word is the word under a mask. -/
theorem setWidth_extractLsb'_zero (v : Word) (n : Nat) :
    (v.extractLsb' 0 n).setWidth 32 = v &&& BitVec.ofNat 32 (2 ^ n - 1) := by
  apply BitVec.eq_of_getLsbD_eq
  intro k hk
  rw [BitVec.getLsbD_and, BitVec.getLsbD_ofNat, Nat.testBit_two_pow_sub_one]
  simp [hk, Bool.and_comm]

/-- The rounding mode that a write to `fcsr` stores, as the word shifted down and cut. -/
theorem setWidth_roundingOfFcsr (v : Word) : (roundingOfFcsr v).setWidth 32 = (v >>> 5) &&& 0x7 := by
  have hfield : roundingOfFcsr v = (v >>> 5).extractLsb' 0 3 := by
    apply BitVec.eq_of_getLsbD_eq
    intro k hk
    simp [roundingOfFcsr, hk]
  rw [hfield, setWidth_extractLsb'_zero]
  rfl

/-- Every bit of the mask of the `n` lowest bits. -/
theorem getLsbD_lowMask (n k : Nat) : (BitVec.ofNat 32 (2 ^ n - 1)).getLsbD k = (decide (k < 32) && decide (k < n)) := by
  rw [BitVec.getLsbD_ofNat, Nat.testBit_two_pow_sub_one]

/-- Flags and rounding mode of a word, put together again, are its eight low bits. -/
theorem fcsr_fields_eq (v : Word) : (((v >>> 5) &&& 0x7) <<< 5) ||| (v &&& 0x1F) = v &&& 0xFF := by
  apply BitVec.eq_of_getLsbD_eq
  intro k hk
  have hflags : (0x1F : Word) = BitVec.ofNat 32 (2 ^ 5 - 1) := rfl
  have hmode : (0x7 : Word) = BitVec.ofNat 32 (2 ^ 3 - 1) := rfl
  have hboth : (0xFF : Word) = BitVec.ofNat 32 (2 ^ 8 - 1) := rfl
  rw [hflags, hmode, hboth, BitVec.getLsbD_or, BitVec.getLsbD_shiftLeft, BitVec.getLsbD_and, BitVec.getLsbD_and,
    BitVec.getLsbD_and, getLsbD_lowMask, getLsbD_lowMask, getLsbD_lowMask, BitVec.getLsbD_ushiftRight]
  by_cases h : k < 5
  · simp [h, show k < 8 by omega]
  · have hcut : (k - 5 < 3) = (k < 8) := propext (by omega)
    simp [h, hk, hcut, show k - 5 < 32 by omega, show 5 + (k - 5) = k by omega]

/-- Settles O42. -/
theorem fcsrIsViewOfFlagsAndMode : Obligations.FcsrIsViewOfFlagsAndMode := by
  intro v s
  have hreset : ((0#3 ++ 0#5).setWidth 32 : Word) = 0 := by decide
  refine ⟨rfl, hreset, rfl, rfl, fcsr_append_eq s.frm s.fflags, ?_, ?_, ?_⟩
  all_goals intro u hu; cases hu
  · refine ⟨setWidth_extractLsb'_zero v 5, setWidth_roundingOfFcsr v, ?_⟩
    rw [← fcsr_fields_eq, ← setWidth_roundingOfFcsr]
    exact (fcsr_append_eq (roundingOfFcsr v) (flagsOfWord v)).trans (by rw [flagsOfWord, setWidth_extractLsb'_zero]; rfl)
  · exact (fcsr_append_eq s.frm (flagsOfWord v)).trans (by rw [flagsOfWord, setWidth_extractLsb'_zero]; rfl)
  · exact (fcsr_append_eq (roundingOfFrm v) s.fflags).trans (by rw [roundingOfFrm, setWidth_extractLsb'_zero]; rfl)

end Sys2Proof.Machine
end

section
/-! PROOFS. A CSR write leaves every other CSR alone, but for the views of its storage (O34; 10_state.md R31). -/

namespace Sys2Proof.Machine

/-! ### The words of the counters -/

/-- A counter whose high word is replaced keeps its low word. -/
theorem lowWord_withHighWord (c : DWord) (v : Word) : lowWord (withHighWord c v) = lowWord c := by
  apply BitVec.eq_of_getLsbD_eq
  intro k hk
  simp [lowWord, getLsbD_withHighWord, hk]

/-- A counter whose low word is replaced keeps its high word. -/
theorem highWord_withLowWord (c : DWord) (v : Word) : highWord (withLowWord c v) = highWord c := by
  apply BitVec.eq_of_getLsbD_eq
  intro k hk
  simp [highWord, getLsbD_withLowWord, hk]

/-- The low word of a masked counter. -/
theorem lowWord_and (c m : DWord) : lowWord (c &&& m) = lowWord c &&& lowWord m := BitVec.extractLsb'_and ..

/-- The high word of a masked counter. -/
theorem highWord_and (c m : DWord) : highWord (c &&& m) = highWord c &&& highWord m := BitVec.extractLsb'_and ..

/-! ### The monitors and the regions one by one -/

/-- What `view` shows of a monitor stays, if the write of a register of monitor `j + 3` keeps it there (11 R119). -/
theorem monitor_hpmAfter_view {α : Type} {s : State} {j n : Nat} {f : HpmMonitor → HpmMonitor} (view : HpmMonitor → α)
    (hf : n = j → view (f (s.monitor n)) = view (s.monitor n)) :
    view (State.monitor { s with hpm := hpmAfter j f s } n) = view (s.monitor n) := by
  rw [monitor_hpmAfter]
  split
  · next h => exact hf h.2.1
  · rfl

/-- What `view` shows of a region stays, if the write of `pmpcfg<k>` keeps it in the regions of its bytes (11 R103). -/
theorem region_pmpAfterCfg_view {α : Type} {s : State} {k i : Nat} {v : Word} (view : PmpRegion → α)
    (hf : i / 4 = k → view ((s.region i).withCfg s.cfg (byteOf v (i % 4))) = view (s.region i)) :
    view (State.region { s with pmp := pmpAfterCfg k v s } i) = view (s.region i) := by
  rw [region_pmpAfterCfg]
  split
  · next h => exact hf h.2.1
  · rfl

/-- What `view` shows of a region stays, if it does not show the address of region `j` (11 R108). -/
theorem region_pmpAfterAddr_view {α : Type} {s : State} {j i : Nat} {v : Word} (view : PmpRegion → α)
    (hf : i = j → view { s.region i with addr := legalPmpAddr s.cfg v } = view (s.region i)) :
    view (State.region { s with pmp := pmpAfterAddr j v s } i) = view (s.region i) := by
  rw [region_pmpAfterAddr]
  split
  · next h => exact hf h.2.1
  · rfl

/-- A write of a configuration byte keeps the address field (11 R103). -/
theorem addr_withCfg (c : Cfg) (b : Byte) (p : PmpRegion) : (p.withCfg c b).addr = p.addr := by
  unfold PmpRegion.withCfg
  split <;> rfl

/-- A configuration word shows its four regions' bytes (11 R101). -/
theorem pmpcfgWord_congr {s t : State} {k : Nat} (h : ∀ i, i / 4 = k → cfgByte t i = cfgByte s i) :
    pmpcfgWord t k = pmpcfgWord s k := by
  rw [pmpcfgWord, h _ (by omega), h _ (by omega), h _ (by omega), h _ (by omega)]
  rfl

/-- A write of `pmpcfg<k>` keeps the other configuration words (11 R101, R103). -/
theorem pmpcfgWord_pmpAfterCfg {s : State} {k k' : Nat} (v : Word) (h : k' ≠ k) :
    pmpcfgWord { s with pmp := pmpAfterCfg k v s } k' = pmpcfgWord s k' := by
  refine pmpcfgWord_congr fun i hi => ?_
  rw [cfgByte, region_pmpAfterCfg_view pmpCfgByte fun hk => absurd (hi.symm.trans hk) h]
  rfl

/-- A write of `pmpcfg<k>` keeps the address registers, at the granularity of 4 bytes (11 R103, R107). -/
theorem pmpaddrWord_pmpAfterCfg {s : State} (hg : s.cfg.pmpMinGranularity = 4) (k : Nat) (v : Word) (i : Nat) :
    pmpaddrWord { s with pmp := pmpAfterCfg k v s } i = pmpaddrWord s i := by
  simp only [pmpaddrWord, pmpAddrField, hg, if_true]
  rw [region_pmpAfterCfg_view PmpRegion.addr fun _ => addr_withCfg ..]

/-- A write of `pmpaddr<j>` keeps the configuration words (11 R101, R108). -/
theorem pmpcfgWord_pmpAfterAddr (s : State) (j : Nat) (v : Word) (k : Nat) :
    pmpcfgWord { s with pmp := pmpAfterAddr j v s } k = pmpcfgWord s k := by
  refine pmpcfgWord_congr fun i _ => ?_
  rw [cfgByte, region_pmpAfterAddr_view pmpCfgByte fun _ => rfl]
  rfl

/-- A write of `pmpaddr<j>` keeps the other address registers (11 R107, R108). -/
theorem pmpaddrWord_pmpAfterAddr {s : State} {i j : Nat} (v : Word) (h : i ≠ j) :
    pmpaddrWord { s with pmp := pmpAfterAddr j v s } i = pmpaddrWord s i := by
  rw [pmpaddrWord, region_pmpAfterAddr_view (pmpAddrField s.cfg) fun hi => absurd hi h]
  rfl

/-- The event selector that a monitor shows stays, if the write of a register of monitor `j + 3` keeps it there (11 R121). -/
theorem hpmEventWord_hpmAfter {s : State} {j n : Nat} {f : HpmMonitor → HpmMonitor}
    (hf : n = j → (f (s.monitor n)).event = (s.monitor n).event) :
    hpmEventWord { s with hpm := hpmAfter j f s } n = hpmEventWord s n := by
  rw [hpmEventWord, monitor_hpmAfter_view HpmMonitor.event hf]
  rfl

/-- The counter word that a monitor shows stays, if the write of a register of monitor `j + 3` keeps it there (11 R123). -/
theorem hpmValue_hpmAfter {s : State} {j n : Nat} {f : HpmMonitor → HpmMonitor} (word : DWord → Word)
    (hf : n = j → word ((f (s.monitor n)).cnt &&& widthMask s.cfg.hpmCntWidth)
      = word ((s.monitor n).cnt &&& widthMask s.cfg.hpmCntWidth)) :
    word (hpmValue { s with hpm := hpmAfter j f s } n) = word (hpmValue s n) := by
  unfold hpmValue
  split
  · exact monitor_hpmAfter_view (fun m => word (m.cnt &&& widthMask s.cfg.hpmCntWidth)) hf
  · rfl

/-- A masked counter whose low word was replaced keeps its high word. -/
theorem highWord_masked_withLowWord (c m : DWord) (v : Word) :
    highWord (withLowWord c v &&& m &&& m) = highWord (c &&& m) := by
  rw [BitVec.and_assoc, BitVec.and_self, highWord_and, highWord_withLowWord, highWord_and]

/-- A masked counter whose high word was replaced keeps its low word. -/
theorem lowWord_masked_withHighWord (c m : DWord) (v : Word) :
    lowWord (withHighWord c v &&& m &&& m) = lowWord (c &&& m) := by
  rw [BitVec.and_assoc, BitVec.and_self, lowWord_and, lowWord_withHighWord, lowWord_and]

/-! ### Which CSRs show which fields -/

/-- Only the registers of the monitors show the monitors. -/
theorem csrRead_setHpm {d : Csr} (s : State) (p : Vector HpmMonitor 13) (hd : d.extension ≠ .zihpm) :
    csrRead d { s with hpm := p } = csrRead d s := by
  cases d with
  | mhpmevent n | mhpmcounter n | mhpmcounterh n => exact absurd rfl hd
  | _ => rfl

/-- Only the PMP registers show the regions. -/
theorem csrRead_setPmp {d : Csr} (s : State) (p : Vector PmpRegion 16) (hd : d.extension ≠ .smpmp) :
    csrRead d { s with pmp := p } = csrRead d s := by
  cases d with
  | pmpcfg k | pmpaddr i => exact absurd rfl hd
  | _ => rfl

/-- Every CSR shares its storage with itself. -/
theorem sharesStorage_self (c : Csr) : sharesStorage c c = true := by
  revert c
  exact forall_csr (by decide)

/-! A write leaves alone what every CSR reads that shows other storage: one lemma for the CSRs of each extension. In each case the
field written is shown by the CSRs that the case names. -/

section OtherCsr

variable {c d : Csr} {v : Word} {s u : State} (h : csrWrite c v s = .ok u) (hs : sharesStorage c d = false)
include h hs

/-- A CSR that shows other storage is another CSR. -/
theorem ne_of_sharesStorage : d ≠ c := by
  rintro rfl
  rw [sharesStorage_self] at hs
  cases hs

theorem csrRead_other_zfinx (hc : c.extension = .zfinx) : csrRead d u = csrRead d s := by
  cases c with
  | fflags =>
    cases h
    cases d with
    | fflags | fcsr => cases hs
    | _ => rfl
  | frm =>
    cases h
    cases d with
    | frm | fcsr => cases hs
    | _ => rfl
  | fcsr =>
    cases h
    cases d with
    | fflags | frm | fcsr => cases hs
    | _ => rfl
  | _ => cases hc

theorem csrRead_other_user (hc : c.extension = .user) : csrRead d u = csrRead d s := by
  cases c with
  | mcounteren =>
    cases h
    cases d with
    | mcounteren => cases hs
    | _ => rfl
  | menvcfg | menvcfgh => cases h; rfl
  | _ => cases hc

theorem csrRead_other_zicsr (hc : c.extension = .zicsr) : csrRead d u = csrRead d s := by
  cases c with
  | mstatus =>
    cases h
    cases d with
    | mstatus => cases hs
    | _ => rfl
  | mie =>
    cases h
    cases d with
    | mie => cases hs
    | _ => rfl
  | mtvec =>
    cases h
    cases d with
    | mtvec => cases hs
    | _ => rfl
  | mcountinhibit =>
    cases h
    cases d with
    | mcountinhibit => cases hs
    | _ => rfl
  | mscratch =>
    cases h
    cases d with
    | mscratch => cases hs
    | _ => rfl
  | mepc =>
    cases h
    cases d with
    | mepc => cases hs
    | _ => rfl
  | misa | mstatush | mcause | mtval | mip | mtinst | mxcsr => cases h; rfl
  | mvendorid | marchid | mimpid | mhartid | mconfigptr | mxisa => cases h; rfl
  | _ => cases hc

theorem csrRead_other_zicntr (hc : c.extension = .zicntr) : csrRead d u = csrRead d s := by
  cases c with
  | mcycle =>
    cases h
    cases d with
    | mcycle | cycle => cases hs
    | mcycleh | cycleh => exact highWord_withLowWord ..
    | _ => rfl
  | mcycleh =>
    cases h
    cases d with
    | mcycleh | cycleh => cases hs
    | mcycle | cycle => exact lowWord_withHighWord ..
    | _ => rfl
  | minstret =>
    cases h
    cases d with
    | minstret | instret => cases hs
    | minstreth | instreth => exact highWord_withLowWord ..
    | _ => rfl
  | minstreth =>
    cases h
    cases d with
    | minstreth | instreth => cases hs
    | minstret | instret => exact lowWord_withHighWord ..
    | _ => rfl
  | cycle | cycleh | instret | instreth => cases h; rfl
  | _ => cases hc

theorem csrRead_other_zihpm (hc : c.extension = .zihpm) : csrRead d u = csrRead d s := by
  have hne := ne_of_sharesStorage h hs
  cases c with
  | mhpmevent j =>
    cases h
    cases d with
    | mhpmevent n => exact hpmEventWord_hpmAfter fun hn => absurd (congrArg Csr.mhpmevent (Fin.ext hn)) hne
    | mhpmcounter n => exact hpmValue_hpmAfter lowWord fun _ => rfl
    | mhpmcounterh n => exact hpmValue_hpmAfter highWord fun _ => rfl
    | _ => exact csrRead_setHpm s _ nofun
  | mhpmcounter j =>
    cases h
    cases d with
    | mhpmevent n => exact hpmEventWord_hpmAfter fun _ => rfl
    | mhpmcounter n => exact hpmValue_hpmAfter lowWord fun hn => absurd (congrArg Csr.mhpmcounter (Fin.ext hn)) hne
    | mhpmcounterh n => exact hpmValue_hpmAfter highWord fun _ => highWord_masked_withLowWord ..
    | _ => exact csrRead_setHpm s _ nofun
  | mhpmcounterh j =>
    cases h
    cases d with
    | mhpmevent n => exact hpmEventWord_hpmAfter fun _ => rfl
    | mhpmcounter n => exact hpmValue_hpmAfter lowWord fun _ => lowWord_masked_withHighWord ..
    | mhpmcounterh n => exact hpmValue_hpmAfter highWord fun hn => absurd (congrArg Csr.mhpmcounterh (Fin.ext hn)) hne
    | _ => exact csrRead_setHpm s _ nofun
  | _ => cases hc

theorem csrRead_other_smpmp (hg : s.cfg.pmpMinGranularity = 4 ∨ ∀ k i, ¬ (c = .pmpcfg k ∧ d = .pmpaddr i))
    (hc : c.extension = .smpmp) : csrRead d u = csrRead d s := by
  have hne := ne_of_sharesStorage h hs
  cases c with
  | pmpcfg j =>
    cases h
    cases d with
    | pmpcfg k => exact pmpcfgWord_pmpAfterCfg v fun hk => absurd (congrArg Csr.pmpcfg (Fin.ext hk)) hne
    | pmpaddr i =>
      obtain hg | hg := hg
      · exact pmpaddrWord_pmpAfterCfg hg j v i
      · exact absurd ⟨rfl, rfl⟩ (hg j i)
    | _ => exact csrRead_setPmp s _ nofun
  | pmpaddr j =>
    cases h
    cases d with
    | pmpcfg k => exact pmpcfgWord_pmpAfterAddr s j v k
    | pmpaddr i => exact pmpaddrWord_pmpAfterAddr v fun hi => absurd (congrArg Csr.pmpaddr (Fin.ext hi)) hne
    | _ => exact csrRead_setPmp s _ nofun
  | _ => cases hc

end OtherCsr

/-- The trigger and debug registers take no write. -/
theorem extension_of_csrWrite {c : Csr} {v : Word} {s u : State} (h : csrWrite c v s = .ok u) :
    c.extension ≠ .sdtrig ∧ c.extension ≠ .sdext := by
  cases c with
  | tselect | tdata1 | tdata2 | tinfo | dcsr | dpc | dscratch0 => cases h
  | _ => exact ⟨nofun, nofun⟩

/-- A write leaves alone what every CSR reads that shows other storage. -/
theorem csrRead_csrWrite_other {c d : Csr} {v : Word} {s u : State} (h : csrWrite c v s = .ok u)
    (hs : sharesStorage c d = false)
    (hg : s.cfg.pmpMinGranularity = 4 ∨ ∀ k i, ¬ (c = .pmpcfg k ∧ d = .pmpaddr i)) : csrRead d u = csrRead d s := by
  obtain ⟨htrig, hdebug⟩ := extension_of_csrWrite h
  cases hc : c.extension with
  | zicsr => exact csrRead_other_zicsr h hs hc
  | zfinx => exact csrRead_other_zfinx h hs hc
  | user => exact csrRead_other_user h hs hc
  | smpmp => exact csrRead_other_smpmp h hs hg hc
  | zicntr => exact csrRead_other_zicntr h hs hc
  | zihpm => exact csrRead_other_zihpm h hs hc
  | sdtrig => exact absurd hc htrig
  | sdext => exact absurd hc hdebug

/-- Settles O34. -/
theorem csrWriteTouchesOnlyItsStorage : Obligations.CsrWriteTouchesOnlyItsStorage := by
  intro c d v s u h
  have hk := csrWrite_kept h
  exact ⟨csrRead_csrWrite_other h, hk.cfg, hk.x, hk.pc, hk.priv, hk.debugMode, hk.sleeping, hk.mem⟩

end Sys2Proof.Machine
end

section
/-! PROOFS. What the CSRs read after reset (O60; 70_reset_and_hazards.md R320 to R323). -/

namespace Sys2Proof.Machine

theorem region_resetOf (c : Cfg) (i : Nat) : (State.resetOf c).region i = {} := by
  by_cases hi : i < 16
  · simp [State.region, State.resetOf, hi]
  · exact region_past _ (by omega)

theorem monitor_resetOf (c : Cfg) (n : Nat) : (State.resetOf c).monitor n = {} := by
  by_cases hn : n < 13
  · simp [State.monitor, State.resetOf, hn]
  · exact monitor_past _ (by omega)

/-- After reset every region's configuration byte reads 0 (11 R101). -/
theorem cfgByte_resetOf (c : Cfg) (i : Nat) : cfgByte (State.resetOf c) i = 0 := by
  rw [cfgByte, region_resetOf]
  split <;> rfl

/-- After reset every monitor's registers read 0 (11 R119). -/
theorem monitor_reads_resetOf (c : Cfg) (n : Fin 13) :
    csrRead (.mhpmevent n) (State.resetOf c) = 0 ∧ csrRead (.mhpmcounter n) (State.resetOf c) = 0
      ∧ csrRead (.mhpmcounterh n) (State.resetOf c) = 0 := by
  simp [csrRead, hpmEventWord, hpmValue, monitor_resetOf, lowWord, highWord]

/-- After reset every address register reads 0, at the granularity of 4 bytes (11 R107). -/
theorem pmpaddrWord_resetOf {c : Cfg} (hg : c.pmpMinGranularity = 4) (i : Nat) : pmpaddrWord (State.resetOf c) i = 0 := by
  have hfield : pmpAddrField c {} = 0 := by rw [pmpAddrField, if_pos hg]
  rw [pmpaddrWord, region_resetOf]
  split
  · rw [show (State.resetOf c).cfg = c from rfl, hfield]
    rfl
  · rfl

/-- No CSR but the trigger and debug registers shows what the input of a reset step sets (R323). -/
theorem csrRead_setFree {d : Csr} (s : State) (ht : isTriggerCsr d = false) (hd : isDebugCsr d = false) (x : Vector Word 32)
    (m : List Host.Cell) (tr : TriggerRegs) (dr : DebugRegs) (is : List StepInput) (n : Nat) (i : StepInput) :
    csrRead d { s with x := x, mem := m, trigger := tr, debugRegs := dr, inputs := is, stepNo := n, draw := i }
      = csrRead d s := by
  cases d with
  | tselect | tdata1 | tdata2 | tinfo => cases ht
  | dcsr | dpc | dscratch0 => cases hd
  | _ => rfl

/-- Settles O60. -/
theorem resetCsrValues : Obligations.ResetCsrValues := by
  refine ⟨fun c => ⟨?_, ?_, monitor_reads_resetOf c, fun k => ?_, fun hg i => pmpaddrWord_resetOf hg i, rfl, rfl, rfl,
    readX_zero _⟩, fun s r hr hreset => ?_⟩
  · simp [csrRead, State.resetOf, fcsrWord, mcounterenWord, mcauseWord, mipWord, wordOfBits, bitAt, lowWord, highWord]
  · cases hu : c.extU <;> simp [csrRead, State.resetOf, resetMpp, hu] <;> rfl
  · simp [csrRead, pmpcfgWord, cfgByte_resetOf]
  · exact ⟨cpuReset r s, step_reset hr hreset, cpuReset_cfg r s, fun d ht hd => csrRead_setFree _ ht hd .., rfl, rfl, rfl, rfl,
      readX_zero _⟩

end Sys2Proof.Machine
end

section
/-! PROOFS. PMP locking (O51): everything a step can do to the regions, and what a lock keeps of them (11 R103, R105, R108). -/

namespace Sys2Proof.Machine

/-! ### What a write of a PMP register does to a locked region -/

/-- A locked region keeps its configuration byte (11 R105). -/
theorem withCfg_of_locked {p : PmpRegion} (h : p.l = true) (c : Cfg) (b : Byte) : p.withCfg c b = p := if_pos h

/-- An address register takes writes where its region is implemented and not locked and the region above is not locked in TOR mode
(11 R108). -/
theorem pmpaddrWritable_iff (s : State) (i : Nat) :
    pmpaddrWritable s i = true ↔ i < s.cfg.pmpNumRegions ∧ (s.region i).l = false ∧ ¬ s.lockedTor (i + 1) := by
  simp only [pmpaddrWritable, State.lockedTor, State.locked, Bool.and_eq_true, decide_eq_true_eq, Bool.not_eq_true',
    ← Bool.not_eq_true, beq_iff_eq, and_assoc]

/-! ### What a step does to the regions -/

/-- What an operation of the machine does to the regions: nothing, or one write of a PMP register. -/
inductive PmpEffect (s t : State) : Prop where
  /-- No region changes. -/
  | kept (h : t.pmp = s.pmp)
  /-- `pmpcfg<k>` is written (11 R103). -/
  | cfgWritten (k : Nat) (v : Word) (h : t.pmp = pmpAfterCfg k v s)
  /-- `pmpaddr<j>` is written (11 R108). -/
  | addrWritten (j : Nat) (v : Word) (h : t.pmp = pmpAfterAddr j v s)

theorem pmpEffect_csrWrite {c : Csr} {v : Word} {s u : State} (h : csrWrite c v s = .ok u) : PmpEffect s u := by
  cases c with
  | pmpcfg k => cases h; exact .cfgWritten k v rfl
  | pmpaddr j => cases h; exact .addrWritten j v rfl
  | tselect | tdata1 | tdata2 | tinfo | dcsr | dpc | dscratch0 => cases h
  | _ => cases h; exact .kept rfl

/-- The effect on the regions does not see the other fields of the state after. -/
theorem PmpEffect.congr {s t u : State} (h : PmpEffect s u) (he : t.pmp = u.pmp) : PmpEffect s t := by
  cases h with
  | kept hu => exact .kept (he.trans hu)
  | cfgWritten k v hu => exact .cfgWritten k v (he.trans hu)
  | addrWritten j v hu => exact .addrWritten j v (he.trans hu)

theorem pmpEffect_exec {i : Instr} {s t : State} (h : exec i s = .next t) : PmpEffect s t := by
  obtain ⟨-, -, heffect⟩ := exec_next h
  cases heffect with
  | illegal ht => subst ht; exact .kept rfl
  | ret _ _ ht => subst ht; exact .kept rfl
  | wait _ _ ht => subst ht; exact .kept rfl
  | csr c rd wr _ _ _ ht =>
    obtain ⟨u, hu, rfl⟩ := csrModify_next ht
    refine PmpEffect.congr (u := u) ?_ (writeX_pmp ..)
    split at hu
    · exact pmpEffect_csrWrite hu
    · cases hu; exact .kept rfl

/-- An out-of-scope instruction changes no region. -/
theorem foreignStep_pmp (w : Word) (s : State) : (foreignStep w s).pmp = s.pmp := by
  cases hx : foreignException s with
  | some c => rw [foreignStep_exception hx]; simp
  | none => rw [foreignStep_completes hx]; simp

/-- The passing of time changes neither the regions nor what a write of a PMP register does to them. -/
theorem PmpEffect.of_tick {s t : State} (h : PmpEffect (tick s) t) : PmpEffect s t := by
  cases h with
  | kept ht => exact .kept ht
  | cfgWritten k v ht => exact .cfgWritten k v ht
  | addrWritten j v ht => exact .addrWritten j v ht

/-- Only one of the eight instructions writes a PMP register, and a step runs at most one. -/
theorem pmpEffect_step {s t : State} (h : StepEffect (tick s) t) : PmpEffect s t := by
  refine PmpEffect.of_tick ?_
  cases h with
  | asleep _ ht => subst ht; exact .kept rfl
  | interrupt _ i _ ht => subst ht; exact .kept rfl
  | fetchFault _ _ _ ht => subst ht; exact .kept (raiseFetchFault_entered (tick s)).1.pmp
  | foreign _ _ w _ _ _ ht => subst ht; exact .kept (foreignStep_pmp w (tick s))
  | ran _ _ _ _ i _ he => exact pmpEffect_exec he

/-! ### What a lock keeps -/

/-- A locked region keeps its configuration byte and its address (11 R105). -/
theorem PmpEffect.region_of_locked {s t : State} {i : Nat} (h : PmpEffect s t) (hl : s.locked i) : t.region i = s.region i := by
  obtain ⟨-, hlock⟩ := hl
  cases h with
  | kept ht => exact region_congr ht i
  | cfgWritten k v ht =>
    rw [region_congr (s := { s with pmp := pmpAfterCfg k v s }) ht, region_pmpAfterCfg, withCfg_of_locked hlock, ite_self]
  | addrWritten j v ht =>
    rw [region_congr (s := { s with pmp := pmpAfterAddr j v s }) ht, region_pmpAfterAddr, if_neg]
    rintro ⟨-, rfl, hw⟩
    obtain ⟨-, hunlocked, -⟩ := (pmpaddrWritable_iff s i).mp hw
    rw [hlock] at hunlocked
    cases hunlocked

/-- The address below a region that is locked in TOR mode keeps its value (11 R108, D17). -/
theorem PmpEffect.addr_of_lockedTor {s t : State} {i : Nat} (h : PmpEffect s t) (hl : s.lockedTor (i + 1)) :
    (t.region i).addr = (s.region i).addr := by
  cases h with
  | kept ht => rw [region_congr ht]
  | cfgWritten k v ht =>
    rw [region_congr (s := { s with pmp := pmpAfterCfg k v s }) ht]
    exact region_pmpAfterCfg_view PmpRegion.addr fun _ => addr_withCfg ..
  | addrWritten j v ht =>
    rw [region_congr (s := { s with pmp := pmpAfterAddr j v s }) ht, region_pmpAfterAddr, if_neg]
    rintro ⟨-, rfl, hw⟩
    obtain ⟨-, -, habove⟩ := (pmpaddrWritable_iff s i).mp hw
    exact habove hl

/-- Settles O51: a step is a reset, or does to the regions what one PMP register write does, which a lock withstands. -/
theorem lockedRegionsNeverChange : Obligations.LockedRegionsNeverChange := by
  intro s t i hs
  have hcfg : t.cfg = s.cfg := (configurationIsFixed s t hs).1
  obtain ⟨-, ⟨r, hreset, rfl⟩ | ⟨hnone, heffect⟩⟩ := step_next hs
  · refine ⟨fun hn => ?_, fun _ _ => ?_⟩
    · rw [hreset] at hn
      cases hn
    · exact (region_congr (cpuReset_pmp r s) i).trans (region_resetOf s.cfg i)
  · have hpmp := pmpEffect_step heffect
    refine ⟨fun _ => ⟨fun hl => ?_, hpmp.addr_of_lockedTor⟩, fun r hreset => ?_⟩
    · have hkept := hpmp.region_of_locked hl
      exact ⟨hkept, by rwa [State.locked, hcfg, hkept]⟩
    · rw [hreset] at hnone
      cases hnone

end Sys2Proof.Machine
end

section
/-! PROOFS. The machine information registers (O36), `mxcsr` and `mxisa` (O37). -/

namespace Sys2Proof.Machine

/-- Settles O36: the information registers have no storage but the configuration. -/
theorem machineInformationValues : Obligations.MachineInformationValues :=
  fun _ => ⟨rfl, rfl, rfl, rfl, rfl, rfl, rfl⟩

/-- A word whose flags are listed from bit 0 upwards reads the flag of that number. -/
theorem getLsbD_wordOfBits_zipIdx (l : List Bool) {k : Nat} (hk : k < 32) :
    (wordOfBits (l.zipIdx.map Prod.swap)).getLsbD k = l[k]?.getD false := by
  rw [getLsbD_wordOfBits, Bool.eq_iff_iff, List.any_eq_true]
  simp [hk, List.mem_zipIdx_iff_getElem?, Option.getD_eq_iff]

/-- The flags of the configuration that `mxisa` shows, from bit 0 to bit 30 (11 R138). -/
def mxisaFlags (c : Cfg) : List Bool :=
  [c.extZicsr, c.sub.zifencei, c.sub.zmmul, c.sub.zxcfu, c.sub.zkt, c.extZfinx, c.sub.zicond, c.extZicntr, c.extSmpmp, c.extZihpm,
    c.extSdext, c.extSdtrig, c.sub.zbkx, c.sub.zknd, c.sub.zkne, c.sub.zknh, c.sub.zbkb, c.sub.zbkc, c.sub.zkn, c.sub.zksh,
    c.sub.zksed, c.sub.zks, c.sub.zba, c.sub.zbb, c.sub.zbs, c.sub.zaamo, c.sub.zalrsc, c.sub.zcb, c.extC, c.sub.zibi,
    c.sub.zimop]

theorem mxisaWord_eq_flags (c : Cfg) : mxisaWord c = wordOfBits ((mxisaFlags c).zipIdx.map Prod.swap) := by
  unfold mxisaWord
  exact congrArg wordOfBits rfl

/-- Bit 31 of `mxisa` is of no flag. -/
theorem mxisaFlags_getD (c : Cfg) {k : Nat} (hk : k < 32) :
    some ((mxisaFlags c)[k]?.getD false) = (mxisaFlags c ++ [false])[k]? := by
  have hlength : (mxisaFlags c).length = 31 := rfl
  rw [List.getElem?_append, hlength]
  split
  · next h => rw [List.getElem?_eq_getElem (hlength ▸ h), Option.getD_some]
  · next h =>
    obtain rfl : k = 31 := by omega
    rfl

/-- Settles O37. -/
theorem neorvRegistersReadConfiguration : Obligations.NeorvRegistersReadConfiguration := by
  intro s v
  refine ⟨rfl, fun k hk => ?_, fun k hk => ?_⟩
  · rw [csrRead, mxcsrWord, getLsbD_wordOfBits]
    split
    case h_7 => simp_all
    all_goals simp
  · rw [csrRead, mxisaWord_eq_flags, getLsbD_wordOfBits_zipIdx _ hk]
    exact mxisaFlags_getD s.cfg hk

end Sys2Proof.Machine
end

section
/-! PROOFS. The counters: what an instruction does to the instruction counter (O26) and the passing of time to the others (O46),
and the registers of the monitors (O47, O48; 11 R110 to R127). -/

namespace Sys2Proof.Machine

/-! ### The instruction counter (11 R113, R114, D22) -/

theorem isInstret_iff (c : Csr) : c.isInstret = true ↔ c = .minstret ∨ c = .minstreth := by
  cases c <;> simp [Csr.isInstret]

/-- Only machine mode may access `minstret[h]`, where the counter exists (R28). -/
theorem csrAllowed_isInstret {c : Csr} {wr : Bool} {s : State} (hr : Running s) (hc : c.isInstret = true)
    (h : csrAllowed c wr s = true) : s.priv = .machine ∧ s.cfg.extZicntr = true := by
  obtain rfl | rfl := (isInstret_iff c).mp hc
  all_goals simpa [csrAllowed, Csr.existsIn, Csr.cls, AccessClass.readOnly, hr.notDebug, and_comm] using h

/-- After a completing write of `minstret[h]` the counter is what the write left (D22). -/
theorem instret_of_write {i : Instr} {c : Csr} {s t : State} (h : exec i s = .next t) (hc : c.isInstret = true)
    (hi : Instr.access i = some (c.addr, true)) (ha : csrAllowed c true s = true) :
    ∃ u, csrWrite c (Instr.newValue i s (csrRead c s)) s = .ok u ∧ t.instret = u.instret := by
  obtain ⟨hr, hw, -⟩ := exec_next h
  obtain ⟨rd, -, he⟩ := exec_allowed hr hw hi ha
  obtain ⟨u, hu, rfl⟩ := csrModify_next (he.symm.trans h)
  exact ⟨u, hu, by simp [hc]⟩

/-- Every instruction that makes no completing write of `minstret[h]` is counted, whatever it does. -/
theorem instret_of_counted {i : Instr} {s t : State} (h : exec i s = .next t)
    (hn : ∀ c, c.isInstret = true → Instr.access i = some (c.addr, true) → csrAllowed c true s = false) :
    t.instret = instretNext s := by
  obtain ⟨-, -, heffect⟩ := exec_next h
  cases heffect with
  | illegal ht => subst ht; rfl
  | ret _ _ ht => subst ht; rfl
  | wait _ _ ht => subst ht; rfl
  | csr c rd wr hi _ ha ht =>
    obtain ⟨u, -, rfl⟩ := csrModify_next ht
    have hcounted : (wr && c.isInstret) = false := by
      rw [Bool.and_eq_false_imp]
      rintro rfl
      cases hc : c.isInstret with
      | false => rfl
      | true => exact absurd ha (Bool.eq_false_iff.mp (hn c hc hi))
    rw [writeX_instret, hcounted]
    rfl

/-- Settles O26. -/
theorem everyInstructionIsCounted : Obligations.EveryInstructionIsCounted := by
  intro i s t h
  obtain ⟨hr, -, -⟩ := exec_next h
  split
  · next hlow =>
    obtain ⟨hi, hm, hz⟩ := hlow
    obtain ⟨u, hu, ht⟩ := instret_of_write (c := .minstret) h rfl hi (csrAllowed_mrw (c := .minstret) hm rfl hz true)
    cases hu
    exact ht
  split
  · next hhigh =>
    obtain ⟨hi, hm, hz⟩ := hhigh
    obtain ⟨u, hu, ht⟩ := instret_of_write (c := .minstreth) h rfl hi (csrAllowed_mrw (c := .minstreth) hm rfl hz true)
    cases hu
    exact ht
  · next hlow hhigh =>
    have hcounted : t.instret = instretNext s := by
      refine instret_of_counted h fun c hc hi => ?_
      refine Bool.eq_false_iff.mpr fun ha => ?_
      obtain ⟨hm, hz⟩ := csrAllowed_isInstret hr hc ha
      obtain rfl | rfl := (isInstret_iff c).mp hc
      · exact hlow ⟨hi, hm, hz⟩
      · exact hhigh ⟨hi, hm, hz⟩
    simp only [hcounted, instretNext, inhibitIR, Bool.and_eq_true, Bool.not_eq_true']

/-! ### The passing of time (11 R112, R124) -/

/-- A value cut to the `width` lowest bits is the value modulo 2^width (D21). -/
theorem ofNat_and_widthMask (a width : Nat) :
    BitVec.ofNat 64 a &&& widthMask width = BitVec.ofNat 64 (a % 2 ^ width) := by
  apply BitVec.eq_of_getLsbD_eq
  intro k hk
  rw [BitVec.getLsbD_and, getLsbD_widthMask, BitVec.getLsbD_ofNat, BitVec.getLsbD_ofNat, Nat.testBit_mod_two_pow]
  simp [hk, Bool.and_comm]

/-- An event selector without its bit for event CY selects nothing if and only if it selected CY alone or nothing (R121). -/
theorem event_and_eq_zero (e : BitVec 12) : e &&& 0xFFE#12 = 0#12 ↔ e = 0#12 ∨ e = 1#12 := by
  constructor
  · intro h
    have hcy : e = (BitVec.ofBool (e.getLsbD 0)).setWidth 12 := by
      calc e = e &&& (0xFFE#12 ||| 1#12) := BitVec.and_allOnes.symm
        _ = (e &&& 0xFFE#12) ||| (e &&& 1#12) := BitVec.and_or_distrib_left
        _ = e &&& 1#12 := by rw [h, BitVec.zero_or]
        _ = (BitVec.ofBool (e.getLsbD 0)).setWidth 12 := BitVec.and_one_eq_setWidth_ofBool_getLsbD
    rw [hcy]
    cases e.getLsbD 0 with
    | false => exact .inl rfl
    | true => exact .inr rfl
  · rintro (rfl | rfl) <;> rfl

/-- A monitor counts where it is real, not inhibited, and an event that the interval can show is selected (R124, R253). -/
theorem monitorCounts_iff (d : StepInput) (s : State) (n : Nat) :
    monitorCounts d s n = true ↔
      n < s.cfg.hpmNumCnts ∧ s.mcountinhibit.getLsbD (n + 3) = false ∧ (s.monitor n).event ≠ 0
        ∧ ¬ (staysAsleep d s = true ∧ (s.monitor n).event = 1) := by
  simp only [monitorCounts, monitorReal, inhibitHPM, observableEvents, Bool.and_eq_true, decide_eq_true_eq, Bool.not_eq_true',
    bne_iff_ne, and_assoc]
  cases staysAsleep d s with
  | false => simp
  | true => simp [event_and_eq_zero, not_or]

/-- Settles O46. -/
theorem inhibitedCountersStandStill : Obligations.InhibitedCountersStandStill := by
  intro s d
  refine ⟨?_, rfl, fun n hn => ⟨event_tick s n, ?_⟩⟩
  · simp only [tick_cycle, cycleAfter, inhibitCY, Bool.and_eq_true, Bool.not_eq_true', and_assoc, d]
  · simp only [monitor_tick s n hn, monitorCounts_iff]
    split
    · rw [← ofNat_and_widthMask, BitVec.ofNat_add, BitVec.ofNat_toNat, BitVec.setWidth_eq]
    · rfl

/-! ### The counters of the monitors (11 R123) -/

/-- The two words of a monitor's counter, together, are its 64-bit value. -/
theorem csrRead_mhpmcounter_words (n : Fin 13) (s : State) :
    csrRead (.mhpmcounterh n) s ++ csrRead (.mhpmcounter n) s = hpmValue s n.val :=
  highWord_append_lowWord (hpmValue s n.val)

/-- The value of a real monitor's counter, bit by bit. -/
theorem getLsbD_hpmValue {s : State} {n k : Nat} (hn : n < s.cfg.hpmNumCnts) (hk : k < 64) :
    (hpmValue s n).getLsbD k = (decide (k < s.cfg.hpmCntWidth) && (s.monitor n).cnt.getLsbD k) := by
  have hreal : monitorReal s.cfg n = true := decide_eq_true hn
  simp only [hpmValue, hreal, if_true, BitVec.getLsbD_and, getLsbD_widthMask, hk, decide_true, Bool.true_and]
  exact Bool.and_comm ..

/-- A real monitor after a write to one of its registers (R119). -/
theorem monitor_hpmAfter_real {s : State} {n : Fin 13} (hn : n.val < s.cfg.hpmNumCnts) (f : HpmMonitor → HpmMonitor) :
    State.monitor { s with hpm := hpmAfter n.val f s } n.val = f (s.monitor n.val) := by
  rw [monitor_hpmAfter, if_pos ⟨n.isLt, rfl, decide_eq_true hn⟩]

/-- The value of a real monitor's counter after a write that leaves the bits of `c` that exist. -/
theorem getLsbD_hpmValue_written {s u : State} {n k : Nat} {c : DWord} (hn : n < s.cfg.hpmNumCnts) (hk : k < 64)
    (hcfg : u.cfg = s.cfg) (hc : (u.monitor n).cnt = c &&& widthMask s.cfg.hpmCntWidth) :
    (hpmValue u n).getLsbD k = (decide (k < s.cfg.hpmCntWidth) && c.getLsbD k) := by
  rw [getLsbD_hpmValue (hcfg ▸ hn) hk, hc, hcfg, BitVec.getLsbD_and, getLsbD_widthMask]
  cases decide (k < s.cfg.hpmCntWidth) <;> simp [hk]

theorem cnt_of_write_mhpmcounter {n : Fin 13} {v : Word} {s u : State} (hn : n.val < s.cfg.hpmNumCnts)
    (hu : csrWrite (.mhpmcounter n) v s = .ok u) :
    (u.monitor n.val).cnt = withLowWord (s.monitor n.val).cnt v &&& widthMask s.cfg.hpmCntWidth := by
  cases hu
  exact congrArg HpmMonitor.cnt (monitor_hpmAfter_real hn _)

theorem cnt_of_write_mhpmcounterh {n : Fin 13} {v : Word} {s u : State} (hn : n.val < s.cfg.hpmNumCnts)
    (hu : csrWrite (.mhpmcounterh n) v s = .ok u) :
    (u.monitor n.val).cnt = withHighWord (s.monitor n.val).cnt v &&& widthMask s.cfg.hpmCntWidth := by
  cases hu
  exact congrArg HpmMonitor.cnt (monitor_hpmAfter_real hn _)

/-- A monitor that is not real ignores the writes of its counter's words and reads 0 (R119). -/
theorem mhpmcounter_surplus {s u : State} {n : Fin 13} {v : Word} (hn : s.cfg.hpmNumCnts ≤ n.val)
    (hu : csrWrite (.mhpmcounter n) v s = .ok u ∨ csrWrite (.mhpmcounterh n) v s = .ok u) :
    u.hpm = s.hpm ∧ csrRead (.mhpmcounter n) u = 0 ∧ csrRead (.mhpmcounterh n) u = 0 := by
  have hreal : monitorReal s.cfg n.val = false := decide_eq_false (by omega)
  have hsame : u = s := by
    rw [csrWrite_ignored (c := .mhpmcounter n) v (by simp [ignoresWrites, hreal]),
      csrWrite_ignored (c := .mhpmcounterh n) v (by simp [ignoresWrites, hreal]), or_self] at hu
    exact (Except.ok.inj hu).symm
  subst hsame
  obtain ⟨-, hlow, hhigh⟩ := monitor_surplus_reads hn
  exact ⟨rfl, hlow, hhigh⟩

/-- Settles O47. -/
theorem hpmCounterWidth : Obligations.HpmCounterWidth := by
  intro n v s
  refine ⟨fun hn k hk => ?_, fun u hu hn k hk => ?_, fun u hu hn k hk => ?_, fun u hu hn => mhpmcounter_surplus hn hu⟩
  · rw [csrRead_mhpmcounter_words]
    exact getLsbD_hpmValue hn hk
  · rw [csrRead_mhpmcounter_words,
      getLsbD_hpmValue_written hn hk (csrWrite_kept hu).cfg (cnt_of_write_mhpmcounter hn hu), getLsbD_withLowWord]
    split
    · rfl
    · next hlow =>
      have hword : (csrRead (.mhpmcounterh n) s).getLsbD (k - 32) = (hpmValue s n.val).getLsbD k := by
        simp [csrRead, highWord, show k - 32 < 32 by omega, show 32 + (k - 32) = k by omega]
      rw [hword, getLsbD_hpmValue hn hk, ← Bool.and_assoc, Bool.and_self]
  · rw [csrRead_mhpmcounter_words,
      getLsbD_hpmValue_written hn hk (csrWrite_kept hu).cfg (cnt_of_write_mhpmcounterh hn hu), getLsbD_withHighWord]
    split
    · next hlow =>
      have hword : (csrRead (.mhpmcounter n) s).getLsbD k = (hpmValue s n.val).getLsbD k := by
        simp [csrRead, lowWord, hlow]
      rw [hword, getLsbD_hpmValue hn hk, ← Bool.and_assoc, Bool.and_self]
    · rfl

/-! ### The event selectors (11 R121) -/

theorem csrRead_mhpmevent (n : Fin 13) (s : State) :
    csrRead (.mhpmevent n) s = if n.val < s.cfg.hpmNumCnts then (s.monitor n.val).event.setWidth 32 else 0 := by
  simp [csrRead, hpmEventWord, monitorReal]

/-- The event bits that a selector stores, as the word reads them. -/
theorem setWidth_storedEvent (v : Word) : (v.extractLsb' 0 12 &&& hpmEventMask).setWidth 32 = v &&& 0x00000FFD := by
  rw [BitVec.setWidth_and, setWidth_extractLsb'_zero, BitVec.and_assoc]
  rfl

theorem event_of_write_mhpmevent {n : Fin 13} {v : Word} {s u : State} (hn : n.val < s.cfg.hpmNumCnts)
    (hu : csrWrite (.mhpmevent n) v s = .ok u) : (u.monitor n.val).event = v.extractLsb' 0 12 &&& hpmEventMask := by
  cases hu
  exact congrArg HpmMonitor.event (monitor_hpmAfter_real hn _)

/-- Settles O48. -/
theorem hpmEventSelectorMask : Obligations.HpmEventSelectorMask := by
  refine ⟨csrRead_mhpmevent, fun n v s u hu => ?_⟩
  rw [csrRead_mhpmevent, (csrWrite_kept hu).cfg]
  split
  · next hn => rw [event_of_write_mhpmevent hn hu, setWidth_storedEvent]
  · rfl

end Sys2Proof.Machine
end

section
/-! PROOFS. The PMP registers (O49, O50): what they read and what a write of each does to every region (11 R101 to R108). -/

namespace Sys2Proof.Machine

/-! ### What `pmpcfg<k>` reads (11 R101, R102) -/

/-- Byte `j` of the word that four bytes make is the byte that stands there. -/
theorem extractLsb'_wordOfBytes (b : Nat → Byte) {j : Nat} (hj : j < 4) :
    (wordOfBytes (b 0) (b 1) (b 2) (b 3)).extractLsb' (8 * j) 8 = b j := by
  apply BitVec.eq_of_getLsbD_eq
  intro k hk
  rw [BitVec.getLsbD_extractLsb', wordOfBytes]
  simp only [BitVec.getLsbD_append, hk, decide_true, Bool.true_and]
  obtain rfl | rfl | rfl | rfl : j = 0 ∨ j = 1 ∨ j = 2 ∨ j = 3 := by omega
  · rw [if_pos (by omega), Nat.mul_zero, Nat.zero_add]
  · rw [if_neg (by omega), if_pos (by omega), show 8 * 1 + k - 8 = k by omega]
  · rw [if_neg (by omega), if_neg (by omega), if_pos (by omega), show 8 * 2 + k - 8 - 8 = k by omega]
  · rw [if_neg (by omega), if_neg (by omega), if_neg (by omega), show 8 * 3 + k - 8 - 8 - 8 = k by omega]

/-- Byte `j` of `pmpcfg<k>` is that of region 4k + j. -/
theorem extractLsb'_pmpcfgWord (s : State) (k : Nat) {j : Nat} (hj : j < 4) :
    (pmpcfgWord s k).extractLsb' (8 * j) 8 = cfgByte s (4 * k + j) :=
  extractLsb'_wordOfBytes (fun j => cfgByte s (4 * k + j)) hj

/-- The fields of a region's configuration byte. -/
theorem pmpCfgByte_eq_append (p : PmpRegion) :
    pmpCfgByte p = BitVec.ofBool p.l ++ 0b00#2 ++ p.a ++ BitVec.ofBool p.x ++ BitVec.ofBool p.w ++ BitVec.ofBool p.r := by
  have hfields : ∀ (r w x : Bool) (a : BitVec 2) (l : Bool),
      pmpCfgByte { r := r, w := w, x := x, a := a, l := l }
        = BitVec.ofBool l ++ 0b00#2 ++ a ++ BitVec.ofBool x ++ BitVec.ofBool w ++ BitVec.ofBool r := by decide
  exact hfields p.r p.w p.x p.a p.l

/-! ### A write of `pmpcfg<k>` (11 R103, R104) -/

/-- The mode that a write stores (11 R104): OFF and an implemented mode as written, one that synthesis left out as the configuration
says (D18), NA4 at a granularity other than 4 bytes as some mode of the configuration. -/
theorem legalA_cases (c : Cfg) (m : BitVec 2) :
    (m = 0b00#2 → legalA c m = 0b00#2)
      ∧ (m = 0b01#2 → legalA c m = if c.pmpTorModeEn then 0b01#2 else c.pmpLegalA.tor)
      ∧ (m = 0b10#2 → c.pmpNapModeEn = false → legalA c m = c.pmpLegalA.na4)
      ∧ (m = 0b10#2 → c.pmpNapModeEn = true →
          if c.pmpMinGranularity = 4 then legalA c m = 0b10#2 else c.implementsMode (legalA c m) = true)
      ∧ (m = 0b11#2 → legalA c m = if c.pmpNapModeEn then 0b11#2 else c.pmpLegalA.napot) := by
  refine ⟨?_, ?_, ?_, ?_, ?_⟩
  all_goals rintro rfl
  · rfl
  · rfl
  · intro hn
    simp [legalA, hn]
  · intro hn
    split
    · next hg => simp [legalA, hn, hg]
    · next hg => simp [legalA, hn, hg, implementsMode_orOff]
  · rfl

/-- A write of `pmpcfg<k>` changes the implemented unlocked regions of its bytes, each by its own byte, and no other (11 R103,
R105). -/
theorem region_of_write_pmpcfg {k : Fin 4} {v : Word} {s u : State} (hu : csrWrite (.pmpcfg k) v s = .ok u) {i : Nat}
    (hi : i < 16) :
    u.region i =
      if i / 4 = k.val ∧ i < s.cfg.pmpNumRegions ∧ (s.region i).l = false then
        { s.region i with
          r := (byteOf v (i % 4)).getLsbD 0
          w := (byteOf v (i % 4)).getLsbD 1
          x := (byteOf v (i % 4)).getLsbD 2
          a := legalA s.cfg ((byteOf v (i % 4)).extractLsb' 3 2)
          l := (byteOf v (i % 4)).getLsbD 7 }
      else s.region i := by
  cases hu
  rw [region_pmpAfterCfg]
  cases hl : (s.region i).l <;> simp [PmpRegion.withCfg, hl, hi]

/-- A bit of byte `j` of a word. -/
theorem getLsbD_byteOf (v : Word) (j : Nat) {k : Nat} (hk : k < 8) : (byteOf v j).getLsbD k = v.getLsbD (8 * j + k) := by
  simp [byteOf, hk]

/-- The mode field of byte `j` of a word. -/
theorem modeField_byteOf (v : Word) (j : Nat) : (byteOf v j).extractLsb' 3 2 = v.extractLsb' (8 * j + 3) 2 := by
  apply BitVec.eq_of_getLsbD_eq
  intro k hk
  rw [BitVec.getLsbD_extractLsb', BitVec.getLsbD_extractLsb', getLsbD_byteOf v j (by omega), Nat.add_assoc]

/-- Settles O49. -/
theorem pmpcfgWriteByRegion : Obligations.PmpcfgWriteByRegion := by
  refine ⟨fun k s j hj => ?_, fun k v s u hu => ⟨fun i hi => ?_, fun j hj hsurplus => ?_⟩⟩
  · rw [csrRead, extractLsb'_pmpcfgWord s k.val hj, cfgByte, pmpCfgByte_eq_append]
  · have hregion := region_of_write_pmpcfg hu hi
    split
    · next hwritten =>
      rw [if_pos hwritten] at hregion
      rw [hregion]
      refine ⟨getLsbD_byteOf v _ (by omega), getLsbD_byteOf v _ (by omega), getLsbD_byteOf v _ (by omega),
        getLsbD_byteOf v _ (by omega), rfl, ?_⟩
      rw [← modeField_byteOf]
      exact legalA_cases s.cfg _
    · next hkept => rw [hregion, if_neg hkept]
  · rw [csrRead, extractLsb'_pmpcfgWord u k.val hj, cfgByte_surplus]
    rwa [(csrWrite_kept hu).cfg]

/-! ### `pmpaddr<j>` (11 R107, R108) -/

/-- Settles O50. -/
theorem pmpaddrWriteByRegion : Obligations.PmpaddrWriteByRegion := by
  refine ⟨fun j s hg hj => ?_, fun j v s u hg hu i => ?_⟩
  · rw [csrRead, pmpaddrWord, if_pos hj, pmpAddrField, if_pos hg]
  · cases hu
    have hwritten : (i < 16 ∧ i = j.val ∧ pmpaddrWritable s j.val = true) ↔
        (i = j.val ∧ i < s.cfg.pmpNumRegions ∧ (s.region i).l = false ∧ ¬ s.lockedTor (i + 1)) := by
      rw [pmpaddrWritable_iff]
      constructor
      · rintro ⟨-, rfl, hw⟩
        exact ⟨rfl, hw⟩
      · rintro ⟨rfl, hw⟩
        exact ⟨j.isLt, rfl, hw⟩
    have hstored : legalPmpAddr s.cfg v = v.extractLsb' 0 30 := if_pos hg
    simp only [region_pmpAfterAddr, hwritten, hstored]

end Sys2Proof.Machine
end

section
/-! PROOFS. The PMP check (O52): what a region matches, which region decides, and what it then allows (20_memory.md R171 to
R173). -/

namespace Sys2Proof.Machine

/-! ### What a region matches (R171) -/

/-- The trailing ones are the low bits that are 1, up to the first that is 0 or to the fuel. -/
theorem trailingOnes_spec (fuel : Nat) (p : BitVec 30) :
    trailingOnes fuel p ≤ fuel
      ∧ (∀ j, j < trailingOnes fuel p → p.getLsbD j = true)
      ∧ (trailingOnes fuel p < fuel → p.getLsbD (trailingOnes fuel p) = false) := by
  induction fuel generalizing p with
  | zero => simp [trailingOnes]
  | succ fuel ih =>
    rw [trailingOnes]
    split
    · next h0 =>
      obtain ⟨hle, hones, hzero⟩ := ih (p >>> 1)
      refine ⟨by omega, fun j hj => ?_, fun hlt => ?_⟩
      · cases j with
        | zero => exact h0
        | succ j => simpa [Nat.add_comm] using hones j (by omega)
      · simpa [Nat.add_comm] using hzero (by omega)
    · next h0 => exact ⟨by omega, fun j hj => by omega, fun _ => by simpa using h0⟩

/-- The number of trailing ones of an address field is the one place where a 0 ends a run of ones from bit 0. -/
theorem eq_trailingOnes_iff (p : BitVec 30) (k : Nat) :
    k = trailingOnes 30 p ↔ k ≤ 30 ∧ (∀ j, j < k → p.getLsbD j = true) ∧ p.getLsbD k = false := by
  obtain ⟨hle, hones, hzero⟩ := trailingOnes_spec 30 p
  have hend : p.getLsbD (trailingOnes 30 p) = false := by
    obtain hlt | heq := Nat.lt_or_eq_of_le hle
    · exact hzero hlt
    · exact BitVec.getLsbD_of_ge p _ (Nat.le_of_eq heq.symm)
  constructor
  · rintro rfl
    exact ⟨hle, hones, hend⟩
  · rintro ⟨-, hk, hkend⟩
    obtain hlt | heq | hgt := Nat.lt_trichotomy k (trailingOnes 30 p)
    · simp [hones k hlt] at hkend
    · exact heq
    · simp [hk _ hgt] at hend

/-- The word address of a byte. -/
theorem toNat_wordAddr (a : Word) : (a.extractLsb' 2 30).toNat = a.toNat / 4 := by
  rw [BitVec.extractLsb'_toNat, Nat.shiftRight_eq_div_pow, Nat.mod_eq_of_lt]
  have := a.isLt
  omega

/-- NAPOT by arithmetic: the byte lies in the aligned block of 2^(k+3) bytes, `k` the number of trailing ones. -/
theorem napotMatches_iff (p : BitVec 30) (a : Word) :
    napotMatches p (a.extractLsb' 2 30) = true ↔
      a.toNat / 2 ^ (trailingOnes 30 p + 3) = p.toNat / 2 ^ (trailingOnes 30 p + 1) := by
  have hblock : a.toNat / 4 / 2 ^ (trailingOnes 30 p + 1) = a.toNat / 2 ^ (trailingOnes 30 p + 3) := by
    rw [Nat.div_div_eq_div_mul, show trailingOnes 30 p + 3 = 2 + (trailingOnes 30 p + 1) by omega, Nat.pow_add 2 2]
  rw [napotMatches, beq_iff_eq, ← BitVec.toNat_inj, BitVec.toNat_ushiftRight, BitVec.toNat_ushiftRight,
    Nat.shiftRight_eq_div_pow, Nat.shiftRight_eq_div_pow, toNat_wordAddr, hblock]

/-- A region in mode OFF matches nothing, at every granularity. -/
theorem regionMatches_off {s : State} {i : Nat} (h : (s.region i).a = 0) (a : Word) : regionMatches s i a = false := by
  simp [regionMatches, regionMatchesWord, h]

/-- The four address-matching modes (11 R102). -/
theorem mode_cases (m : BitVec 2) : m = 0b00#2 ∨ m = 0b01#2 ∨ m = 0b10#2 ∨ m = 0b11#2 := by
  revert m
  decide

/-- At the granularity of 4 bytes a region matches exactly the bytes of its range. -/
theorem regionMatches_iff_covers {s : State} (hg : s.cfg.pmpMinGranularity = 4) (i : Nat) (a : Word) :
    regionMatches s i a = true ↔ RegionCovers s i a := by
  obtain hm | hm | hm | hm := mode_cases (s.region i).a
  · simp [regionMatches_off hm, RegionCovers, hm]
  · by_cases hi : i = 0
    · subst hi
      simp [regionMatches, regionMatchesWord, RegionCovers, hm, hg, BitVec.le_def, BitVec.lt_def, toNat_wordAddr,
        -BitVec.extractLsb'_toNat]
    · simp [regionMatches, regionMatchesWord, RegionCovers, hm, hg, hi, BitVec.le_def, BitVec.lt_def, toNat_wordAddr,
        -BitVec.extractLsb'_toNat]
  · simp [regionMatches, regionMatchesWord, RegionCovers, hm, hg, ← BitVec.toNat_inj, toNat_wordAddr, -BitVec.extractLsb'_toNat]
  · have hcovers : RegionCovers s i a ↔ ∃ k, k = trailingOnes 30 (s.region i).addr
        ∧ a.toNat / 2 ^ (k + 3) = (s.region i).addr.toNat / 2 ^ (k + 1) := by
      simp only [eq_trailingOnes_iff, and_assoc]
      simp [RegionCovers, hm]
    have hmatches : regionMatches s i a = napotMatches (s.region i).addr (a.extractLsb' 2 30) := by
      simp [regionMatches, regionMatchesWord, hm, hg]
    rw [hcovers, hmatches, napotMatches_iff, exists_eq_left]

/-! ### The region that decides (R172, R173) -/

theorem any_accessBytes {s : State} (hg : s.cfg.pmpMinGranularity = 4) (i : Nat) (a : Word) (n : Nat) :
    (accessBytes a n).any (regionMatches s i) = true ↔ CoversSome s i a n := by
  simp [accessBytes, CoversSome, regionMatches_iff_covers hg]

theorem all_accessBytes {s : State} (hg : s.cfg.pmpMinGranularity = 4) (i : Nat) (a : Word) (n : Nat) :
    (accessBytes a n).all (regionMatches s i) = true ↔ CoversAll s i a n := by
  simp [accessBytes, CoversAll, regionMatches_iff_covers hg]

/-- No region decides if and only if no implemented region takes in any byte. -/
theorem decidingRegion_eq_none_iff {s : State} (hg : s.cfg.pmpMinGranularity = 4) (a : Word) (n : Nat) :
    decidingRegion s a n = none ↔ ∀ i, i < s.cfg.pmpNumRegions → ¬ CoversSome s i a n := by
  simp only [decidingRegion, List.find?_eq_none, List.mem_range, any_accessBytes hg]

/-- The region that decides is the lowest-numbered implemented one that takes in some byte. -/
theorem decidingRegion_eq_some_iff {s : State} (hg : s.cfg.pmpMinGranularity = 4) (a : Word) (n i : Nat) :
    decidingRegion s a n = some i ↔
      i < s.cfg.pmpNumRegions ∧ CoversSome s i a n ∧ ∀ j, j < i → ¬ CoversSome s j a n := by
  simp only [decidingRegion, List.find?_range_eq_some, List.mem_range, Bool.not_eq_true', ← Bool.not_eq_true,
    any_accessBytes hg]
  exact and_left_comm

/-! ### What the deciding region allows (R172, 11 R105 c) -/

/-- Where no region decides, machine mode passes, and every mode where no region is implemented. -/
theorem pmpAllows_undecided {k : AccessKind} {a : Word} {n : Nat} {s : State} (h : decidingRegion s a n = none) :
    pmpAllows k a n s = true ↔ effectivePriv k s = .machine ∨ s.cfg.pmpNumRegions = 0 := by
  simp [pmpAllows, h]

/-- Where a region decides, it has to match the whole access, and to permit it or be unlocked in machine mode. -/
theorem pmpAllows_decided {k : AccessKind} {a : Word} {n i : Nat} {s : State} (h : decidingRegion s a n = some i) :
    pmpAllows k a n s = true ↔
      (accessBytes a n).all (regionMatches s i) = true
        ∧ ((effectivePriv k s = .machine ∧ (s.region i).l = false) ∨ (s.region i).permits k = true) := by
  simp only [pmpAllows, h, Bool.and_eq_true, Bool.or_eq_true, beq_iff_eq, Bool.not_eq_true']

/-- The check at the granularity of 4 bytes. -/
theorem pmpAllows_iff {s : State} (hg : s.cfg.pmpMinGranularity = 4) (k : AccessKind) (a : Word) (n : Nat) :
    pmpAllows k a n s = true ↔
      ((∀ i, i < s.cfg.pmpNumRegions → ¬ CoversSome s i a n)
          ∧ (effectivePriv k s = .machine ∨ s.cfg.pmpNumRegions = 0))
        ∨ ∃ i, i < s.cfg.pmpNumRegions ∧ CoversSome s i a n ∧ (∀ j, j < i → ¬ CoversSome s j a n) ∧ CoversAll s i a n
            ∧ ((effectivePriv k s = .machine ∧ (s.region i).l = false) ∨ (s.region i).permits k = true) := by
  cases hd : decidingRegion s a n with
  | none =>
    have hnone := (decidingRegion_eq_none_iff hg a n).mp hd
    rw [pmpAllows_undecided hd]
    constructor
    · exact fun h => .inl ⟨hnone, h⟩
    · rintro (⟨-, h⟩ | ⟨i, hi, hsome, -⟩)
      · exact h
      · exact absurd hsome (hnone i hi)
  | some i =>
    obtain ⟨hi, hsome, hlowest⟩ := (decidingRegion_eq_some_iff hg a n i).mp hd
    rw [pmpAllows_decided hd, all_accessBytes hg]
    constructor
    · exact fun ⟨hall, h⟩ => .inr ⟨i, hi, hsome, hlowest, hall, h⟩
    · rintro (⟨hnone, -⟩ | ⟨j, hj, hsome', hlowest', hall, h⟩)
      · exact absurd hsome (hnone i hi)
      · have hd' := (decidingRegion_eq_some_iff hg a n j).mpr ⟨hj, hsome', hlowest'⟩
        obtain rfl : i = j := Option.some.inj (hd.symm.trans hd')
        exact ⟨hall, h⟩

/-! ### Facts at every granularity -/

/-- Where every implemented region is OFF none decides. -/
theorem decidingRegion_allOff {s : State} (h : ∀ i, i < s.cfg.pmpNumRegions → (s.region i).a = 0) (a : Word) (n : Nat) :
    decidingRegion s a n = none := by
  simp only [decidingRegion, List.find?_eq_none, List.mem_range, List.any_eq_true]
  rintro i hi ⟨b, -, hb⟩
  rw [regionMatches_off (h i hi)] at hb
  cases hb

/-- The four bytes of an aligned word have one word address. -/
theorem wordAddr_add {a : Word} (ha : a.extractLsb' 0 2 = 0b00#2) {j : Nat} (hj : j < 4) :
    (a + BitVec.ofNat 32 j).extractLsb' 2 30 = a.extractLsb' 2 30 := by
  have hlow : a.toNat % 4 = 0 := by simpa [BitVec.extractLsb'_toNat] using congrArg BitVec.toNat ha
  apply BitVec.eq_of_toNat_eq
  rw [toNat_wordAddr, toNat_wordAddr, BitVec.toNat_add, BitVec.toNat_ofNat]
  have := a.isLt
  omega

/-- A region matches all four bytes of an aligned word or none. -/
theorem all_of_any_aligned {s : State} {a : Word} {i : Nat} (ha : a.extractLsb' 0 2 = 0b00#2)
    (h : (accessBytes a 4).any (regionMatches s i) = true) : (accessBytes a 4).all (regionMatches s i) = true := by
  have hword : ∀ b ∈ accessBytes a 4, regionMatches s i b = regionMatches s i a := by
    intro b hb
    obtain ⟨j, hj, rfl⟩ := List.mem_map.mp hb
    rw [regionMatches, wordAddr_add ha (List.mem_range.mp hj), regionMatches]
  obtain ⟨b, hb, hmatch⟩ := List.any_eq_true.mp h
  rw [hword b hb] at hmatch
  exact List.all_eq_true.mpr fun c hc => (hword c hc).trans hmatch

/-- An aligned machine-mode fetch passes where no implemented region is locked. -/
theorem pmpAllows_machineFetch {s : State} {a : Word} (hm : s.priv = .machine) (ha : a.extractLsb' 0 2 = 0b00#2)
    (hl : ∀ i, i < s.cfg.pmpNumRegions → (s.region i).l = false) : pmpAllows .fetch a 4 s = true := by
  cases hd : decidingRegion s a 4 with
  | none => exact (pmpAllows_undecided hd).mpr (.inl hm)
  | some i =>
    obtain ⟨hsome, hi, -⟩ := List.find?_range_eq_some.mp hd
    exact (pmpAllows_decided hd).mpr ⟨all_of_any_aligned ha hsome, .inl ⟨hm, hl i (List.mem_range.mp hi)⟩⟩

/-- Settles O52. -/
theorem pmpFetchCheckByMode : Obligations.PmpFetchCheckByMode := by
  intro a s
  refine ⟨fun hg i => regionMatches_iff_covers hg i a, fun hg k n => ?_, fun hu hn hoff => ?_, pmpAllows_machineFetch⟩
  · rw [pmpAllows_iff hg]
    cases k <;> rfl
  · rw [← Bool.not_eq_true, pmpAllows_undecided (decidingRegion_allOff hoff a 4)]
    rintro (hm | hz)
    · rw [effectivePriv, hu] at hm
      cases hm
    · omega

end Sys2Proof.Machine
end

section
/-! PROOFS. The memory frame of the in-scope instructions (O24; 20_memory.md R160, R181). -/

namespace Sys2Proof.Machine

/-- A CSR access touches no memory, whatever it writes and to whichever register its old value goes (R31, R220). -/
theorem csrModify_mem {c : Csr} {rd : RegNum} {wr : Bool} {new : Word → Word} {s t : State}
    (h : csrModify c rd wr new s = .next t) : t.mem = s.mem := by
  obtain ⟨u, hu, rfl⟩ := csrModify_next h
  rw [writeX_mem]
  split at hu
  · exact (csrWrite_kept hu).mem
  · cases hu
    rfl

/-- An instruction leaves the memory cells as they are, whether it completes or traps (R181; 60_exceptions.md R285). -/
theorem exec_keeps_mem {i : Instr} {s t : State} (h : exec i s = .next t) : t.mem = s.mem := by
  obtain ⟨-, -, heffect⟩ := exec_next h
  cases heffect with
  | illegal ht => subst ht; exact raiseException_mem _ _ s
  | csr c rd wr _ _ _ ht => exact csrModify_mem ht
  | ret _ _ ht => subst ht; exact trapReturn_mem (countInstr s)
  | wait _ _ ht => subst ht; exact countInstr_mem s

/-- Settles O24: a byte is read from the memory cells alone, and no instruction touches them. -/
theorem instructionsLeaveMemory : Obligations.InstructionsLeaveMemory := by
  intro i s t h a
  rw [State.readByte, State.readByte, exec_keeps_mem h]

end Sys2Proof.Machine
end

section
/-! PROOFS. Decoding and encoding are inverse, and the rows of the table (O1 to O4; 30_encoding.md R190 to R196). -/

namespace Sys2Proof

open Machine

/-! ### A word from its fields and from its bytes (30_encoding.md R191, 20_memory.md R161) -/

/-- A word of the major opcode SYSTEM is made of its fields (R191). -/
theorem systemWord_fields {w : Word} (hop : w.extractLsb' 0 7 = opSystem) :
    systemWord (fieldCsr w) (fieldRs1 w) (fieldFunct3 w) (fieldRd w) = w := by
  have hcsr : fieldCsr w ++ fieldRs1 w = w.extractLsb' 15 17 := BitVec.extractLsb'_append_extractLsb'_eq_extractLsb' rfl
  have hfunct3 : w.extractLsb' 15 17 ++ fieldFunct3 w = w.extractLsb' 12 20 :=
    BitVec.extractLsb'_append_extractLsb'_eq_extractLsb' rfl
  have hrd : w.extractLsb' 12 20 ++ fieldRd w = w.extractLsb' 7 25 :=
    BitVec.extractLsb'_append_extractLsb'_eq_extractLsb' rfl
  have hopcode : w.extractLsb' 7 25 ++ w.extractLsb' 0 7 = w.extractLsb' 0 32 :=
    BitVec.extractLsb'_append_extractLsb'_eq_extractLsb' rfl
  rw [systemWord, ← hop, hcsr, hfunct3, hrd, hopcode, BitVec.extractLsb'_eq_self]

/-- The bytes of a word in memory make the word (R161; log 22). -/
@[simp] theorem decodeBytes_bytesOfWord (w : Word) : decodeBytes (bytesOfWord w) = decode w := by
  have h32 : byteOf w 3 ++ byteOf w 2 = w.extractLsb' 16 16 := BitVec.extractLsb'_append_extractLsb'_eq_extractLsb' rfl
  have h321 : w.extractLsb' 16 16 ++ byteOf w 1 = w.extractLsb' 8 24 :=
    BitVec.extractLsb'_append_extractLsb'_eq_extractLsb' rfl
  have h3210 : w.extractLsb' 8 24 ++ byteOf w 0 = w.extractLsb' 0 32 :=
    BitVec.extractLsb'_append_extractLsb'_eq_extractLsb' rfl
  rw [bytesOfWord, decodeBytes, wordOfBytes, h32, h321, h3210, BitVec.extractLsb'_eq_self]

/-! ### Decoding and encoding are inverse (R194) -/

/-- Decoding undoes encoding. -/
theorem decode_encode (i : Instr) : decode (encode i) = .ok i := by
  cases i with
  | mret => rfl
  | wfi => rfl
  | _ => simp [encode, decode]

/-- A SYSTEM word whose funct3 has the number of `f` is the word of its other fields and `f`. -/
theorem systemWord_of_funct3 {w : Word} (f : BitVec 3) (hop : w.extractLsb' 0 7 = opSystem)
    (hf : (fieldFunct3 w).toNat = f.toNat) : systemWord (fieldCsr w) (fieldRs1 w) f (fieldRd w) = w := by
  rw [← BitVec.eq_of_toNat_eq hf, systemWord_fields hop]

/-- Encoding undoes decoding. -/
theorem encode_of_decode {w : Word} {i : Instr} (h : decode w = .ok i) : encode i = w := by
  unfold decode at h
  split at h
  · cases h
  split at h
  · cases h
  next hop =>
  have hop : w.extractLsb' 0 7 = opSystem := Decidable.not_not.mp hop
  split at h
  case h_1 =>
    split at h
    · next hw => cases h; exact hw.symm
    split at h
    · next hw => cases h; exact hw.symm
    · cases h
  case h_8 => cases h
  all_goals
    next hf =>
    cases h
    exact systemWord_of_funct3 _ hop hf

/-- The words that decode to an instruction: its own, and no other. -/
theorem decode_eq_ok_iff {w : Word} {i : Instr} : decode w = .ok i ↔ encode i = w := by
  refine ⟨encode_of_decode, ?_⟩
  rintro rfl
  exact decode_encode i

/-! ### The rows of the table (R194) -/

/-! The mask of a row with operands keeps the opcode and the funct3 and clears the operands. -/

theorem opcode_and_rowMask (w : Word) : (w &&& 0x0000707f).extractLsb' 0 7 = w.extractLsb' 0 7 :=
  BitVec.extractLsb'_and.trans BitVec.and_allOnes

theorem fieldFunct3_and_rowMask (w : Word) : fieldFunct3 (w &&& 0x0000707f) = fieldFunct3 w :=
  BitVec.extractLsb'_and.trans BitVec.and_allOnes

theorem fieldRd_and_rowMask (w : Word) : fieldRd (w &&& 0x0000707f) = 0 := BitVec.extractLsb'_and.trans BitVec.and_zero

theorem fieldRs1_and_rowMask (w : Word) : fieldRs1 (w &&& 0x0000707f) = 0 := BitVec.extractLsb'_and.trans BitVec.and_zero

theorem fieldCsr_and_rowMask (w : Word) : fieldCsr (w &&& 0x0000707f) = 0 := BitVec.extractLsb'_and.trans BitVec.and_zero

/-- A word agrees with a row under its mask exactly when it has the opcode SYSTEM and the row's funct3. -/
theorem and_rowMask_eq_iff (w : Word) (f : BitVec 3) :
    w &&& 0x0000707f = systemWord 0 0 f 0 ↔ w.extractLsb' 0 7 = opSystem ∧ fieldFunct3 w = f := by
  constructor
  · intro h
    rw [← opcode_and_rowMask, ← fieldFunct3_and_rowMask, h]
    exact ⟨opcode_systemWord .., fieldFunct3_systemWord ..⟩
  · rintro ⟨hop, rfl⟩
    rw [← systemWord_fields ((opcode_and_rowMask w).trans hop), fieldCsr_and_rowMask, fieldRs1_and_rowMask,
      fieldFunct3_and_rowMask, fieldRd_and_rowMask]

/-- The words of a row with operands are those that agree with it under its mask. -/
theorem exists_systemWord_iff (w : Word) (f : BitVec 3) :
    (∃ rd csr rs1, systemWord csr rs1 f rd = w) ↔ w &&& 0x0000707f = systemWord 0 0 f 0 := by
  rw [and_rowMask_eq_iff]
  constructor
  · rintro ⟨rd, csr, rs1, rfl⟩
    exact ⟨opcode_systemWord .., fieldFunct3_systemWord ..⟩
  · rintro ⟨hop, rfl⟩
    exact ⟨fieldRd w, fieldCsr w, fieldRs1 w, systemWord_fields hop⟩

/-- Settles O1. -/
theorem decodeOfEncode : Obligations.DecodeOfEncode :=
  fun i => ⟨decode_encode i, (decodeBytes_bytesOfWord _).trans (decode_encode i)⟩

/-- Settles O2. -/
theorem encodeOfDecode : Obligations.EncodeOfDecode :=
  fun _ _ => encode_of_decode

/-- Settles O3: an instruction decodes from its own word alone, and a row's words are those with its opcode and funct3. -/
theorem decodeAcceptsExactlyTheTable : Obligations.DecodeAcceptsExactlyTheTable := by
  intro w
  have hfull : w &&& 0xffffffff = w := BitVec.and_allOnes
  simp only [decode_eq_ok_iff, hfull]
  exact ⟨exists_systemWord_iff w 0b001, exists_systemWord_iff w 0b010, exists_systemWord_iff w 0b011,
    exists_systemWord_iff w 0b101, exists_systemWord_iff w 0b110, exists_systemWord_iff w 0b111, eq_comm, eq_comm⟩

/-- Settles O4: each word is one case of the decoder. -/
theorem decodeOfSpecWords : Obligations.DecodeOfSpecWords := by
  refine ⟨?_, ?_, ?_, ?_, ?_, ?_, ?_, ?_, ?_, ?_, ?_, ?_, ?_⟩ <;> rfl

end Sys2Proof
end

section
/-! PROOFS. The step of an instruction whose bytes stand at the pc (O5; 30_encoding.md R190, 00_scope.md R14, R15). -/

namespace Sys2Proof.Machine

/-- A fetch that the PMP lets through finds the word of the four bytes at the pc, where it is a 32-bit instruction (R161, R190). -/
theorem fetch_word {s : State} {b0 b1 b2 b3 : Byte} (h0 : s.readByte s.pc.toNat = some b0)
    (h1 : s.readByte (s.pc + 1).toNat = some b1) (h2 : s.readByte (s.pc + 2).toNat = some b2)
    (h3 : s.readByte (s.pc + 2 + 1).toNat = some b3) (hlong : b0.extractLsb' 0 2 = 0b11#2)
    (hp2 : pmpAllows .fetch s.pc 2 s = true) (hp4 : pmpAllows .fetch s.pc 4 s = true) :
    fetch s = .word (wordOfBytes b0 b1 b2 b3) := by
  have hassoc : (b3 ++ b2) ++ (b1 ++ b0) = wordOfBytes b0 b1 b2 b3 := BitVec.append_assoc'
  have hfull : (s.cfg.extC && (b1 ++ b0).extractLsb' 0 2 != 0b11#2) = false := by simp [lowBits_half, hlong]
  have hsecond : fetchSecond (b1 ++ b0) s = .word (wordOfBytes b0 b1 b2 b3) := by
    rw [fetchSecond, if_pos hp4, readHalf_eq h2 h3, ← hassoc]
  simp only [fetch, hp2, readHalf_eq h0 h1, hfull, hsecond]
  rfl

/-- The first byte of an instruction has the lowest bits of a 32-bit instruction (R190). -/
theorem lowBits_of_decodeBytes {b0 b1 b2 b3 : Byte} {i : Instr} (h : decodeBytes [b0, b1, b2, b3] = .ok i) :
    b0.extractLsb' 0 2 = 0b11#2 := by
  have hw : encode i = wordOfBytes b0 b1 b2 b3 := encode_of_decode h
  calc b0.extractLsb' 0 2
      = (wordOfBytes b0 b1 b2 b3).extractLsb' 0 2 := (lowBits_word b0 b1 b2 b3).symm
    _ = (encode i).extractLsb' 0 2 := by rw [hw]
    _ = 0b11#2 := lowBits_encode i

/-- A step whose fetch finds the word of an instruction is that instruction's meaning. -/
theorem step_exec {s : State} {w : Word} {i : Instr} (hrun : Running s) (hr : (nextInput s).reset = none)
    (hs : staysAsleep (nextInput s) s = false) (hn : interruptTaken (tick s) = none) (hf : fetch (tick s) = .word w)
    (hd : decode w = .ok i) : step s = exec i (tick s) := by
  rw [step_awake hrun hr hs]
  simp only [boundary, hn, runInstruction, hf, hd]

/-- The passing of time changes nothing that the check of a fetch reads. -/
theorem pmpAllows_fetch_tick (a : Word) (n : Nat) (s : State) : pmpAllows .fetch a n (tick s) = pmpAllows .fetch a n s := rfl

/-- Settles O5: the fetch finds the word of the four bytes. -/
theorem stepRunsDecodedInstruction : Obligations.StepRunsDecodedInstruction := by
  intro s b0 b1 b2 b3 i hrun hr h0 h1 h2 h3 hd hp2 hp4 hs hn
  have hf : fetch (tick s) = .word (wordOfBytes b0 b1 b2 b3) :=
    fetch_word h0 h1 h2 h3 (lowBits_of_decodeBytes hd) ((pmpAllows_fetch_tick s.pc 2 s).trans hp2)
      ((pmpAllows_fetch_tick s.pc 4 s).trans hp4)
  exact ⟨step_exec hrun hr hs hn hf hd, tick_pc s, tick_x s, tick_priv s, tick_mem s, tick_fflags s, tick_frm s, tick_instret s,
    tick_mip s, sameMachineRegisters_tick s⟩

end Sys2Proof.Machine
end

section
/-! PROOFS. Return from a trap and a hart that sleeps on (O8, O14; 41_trap_return_and_wait.md R250, R253, 60_exceptions.md R286). -/

namespace Sys2Proof.Machine

/-! ### What a trap saves comes back (10_state.md R42, R62) -/

/-- The mask of the instruction-address bits that exist clears bit 0, and bit 1 too without the C extension. -/
theorem getLsbD_pcMask (c : Cfg) {k : Nat} (hk : k < 32) : (pcMask c).getLsbD k = decide ((if c.extC then 1 else 2) ≤ k) := by
  have hmask : pcMask c = ~~~BitVec.ofNat 32 (2 ^ (if c.extC then 1 else 2) - 1) := by
    rw [pcMask]
    cases c.extC <;> rfl
  rw [hmask, BitVec.getLsbD_not, BitVec.getLsbD_ofNat, Nat.testBit_two_pow_sub_one]
  simp only [hk, decide_true, Bool.true_and, ← decide_not, Nat.not_lt]

/-- The hardwired bits of an aligned address are already clear, so `mepc` holds all of it. -/
theorem alignPc_of_alignedPc {c : Cfg} {a : Word} (h : c.alignedPc a = true) : alignPc c a = a := by
  obtain ⟨hbit0, hbit1⟩ : a.getLsbD 0 = false ∧ (c.extC = false → a.getLsbD 1 = false) := by
    cases hc : c.extC <;> simpa [Cfg.alignedPc, hc] using h
  apply BitVec.eq_of_getLsbD_eq
  intro k hk
  rw [alignPc, BitVec.getLsbD_and, getLsbD_pcMask c hk]
  match k with
  | 0 => rw [hbit0, Bool.false_and]
  | 1 => cases hc : c.extC with
    | true => simp
    | false => rw [hbit1 hc, Bool.false_and]
  | k + 2 =>
    have hkept : (if c.extC then 1 else 2) ≤ k + 2 := by split <;> omega
    rw [decide_eq_true hkept, Bool.and_true]

/-- MPP holds every mode that the hart has. -/
theorem legalMpp_privBits_of_hasMode {c : Cfg} {p : Priv} (h : c.extU = false → p = .machine) :
    legalMpp c (privBits p) = p := by
  rw [legalMpp_privBits]
  cases hu : c.extU with
  | false => exact (h hu).symm
  | true => cases p <;> rfl

/-- Settles O14: `mepc` and MPP hold the pc and the mode unchanged, and the return takes pc, mode and interrupt enable from where
the entry left them. -/
theorem trapThenReturnResumes : Obligations.TrapThenReturnResumes := by
  intro interrupt code mtval mtinst s hpc hmode
  have hmepc : alignPc s.cfg s.pc = s.pc := alignPc_of_alignedPc hpc
  have hmpp : legalMpp s.cfg (privBits s.priv) = s.priv := legalMpp_privBits_of_hasMode hmode
  simp [hmepc, hmpp]

/-! ### A hart that sleeps on (41_trap_return_and_wait.md R253) -/

/-- A hart sleeps on where it sleeps, the draw lets it, and no pending source is enabled in `mie`. -/
theorem staysAsleep_iff (d : StepInput) (s : State) :
    staysAsleep d s = true ↔ s.sleeping = true ∧ d.sleepOn = true ∧ mipWord d.irq &&& s.mie = 0 := by
  simp only [staysAsleep, mustWake, Bool.and_eq_true, Bool.not_eq_true', bne_eq_false_iff_eq, and_assoc]

/-- No cycle is counted while the hart sleeps on. -/
theorem cycleAfter_of_staysAsleep {d : StepInput} {s : State} (h : staysAsleep d s = true) : cycleAfter d s = s.cycle := by
  simp [cycleAfter, h]

/-- Settles O8: the step is the passing of time, and what let the hart sleep on is that nothing enabled is pending. -/
theorem sleepingHartIdles : Obligations.SleepingHartIdles := by
  intro s hrun hr hs
  obtain ⟨-, -, hnone⟩ := (staysAsleep_iff (nextInput s) s).mp hs
  exact ⟨step_asleep hrun hr hs, hs, cycleAfter_of_staysAsleep hs, tick_instret s, tick_x s, tick_pc s, tick_mem s, hnone⟩

end Sys2Proof.Machine
end

section
/-! PROOFS. Which interrupt is taken and the step that takes it (O6, O13; 60_exceptions.md R277, R278, R280, R285). -/

namespace Sys2Proof.Machine

/-! ### The step that takes an interrupt (R280, R285) -/

/-- The entry of an interrupt counts no instruction. -/
@[simp] theorem enterInterrupt_instret (i : IrqSource) (s : State) : (enterInterrupt i s).instret = s.instret := rfl

/-- A step at whose boundary an interrupt is taken is the entry of that interrupt. -/
theorem step_interrupt {s : State} {i : IrqSource} (hrun : Running s) (hr : (nextInput s).reset = none)
    (hs : staysAsleep (nextInput s) s = false) (hi : interruptTaken (tick s) = some i) :
    step s = .next (enterInterrupt i (tick s)) := by
  rw [step_awake hrun hr hs]
  simp only [boundary, hi]

/-- Settles O6. -/
theorem stepTakesInterrupt : Obligations.StepTakesInterrupt := by
  intro s i hrun hr hs hi
  exact ⟨step_interrupt hrun hr hs hi, (enterInterrupt_instret i (tick s)).trans (tick_instret s)⟩

/-! ### Which interrupt is taken (R277, R278, R280) -/

/-- Interrupts are globally enabled in user mode, and in machine mode while MIE is 1 (R277). -/
theorem globalEnable_iff (s : State) :
    globalEnable s = true ↔ s.priv = .user ∨ (s.priv = .machine ∧ s.mstatus.mie = true) := by
  cases hp : s.priv <;> simp [globalEnable, hp]

/-- The code of a source, as a number, is its bit in `mie` and `mip` (R272). -/
theorem irqSource_code_toNat (i : IrqSource) : (IrqSource.code i).toNat = irqBit i := by
  rw [irqSource_code_eq, BitVec.toNat_ofNat, Nat.mod_eq_of_lt (irqBit_lt i)]

/-- A source is takeable where it can cause a trap, in the terms of the CSRs (R275, R277). -/
theorem takeable_iff_canInterrupt (s : State) (i : IrqSource) : takeable s i = true ↔ CanInterrupt s i := by
  simp only [takeable, irqPending, irqEnabled, irqSource_code_toNat, Bool.and_eq_true, globalEnable_iff, and_assoc]
  rfl

/-- The order of a well-formed configuration names every source (R278). -/
theorem mem_irqPriority {c : Cfg} (h : c.wellFormed = true) (i : IrqSource) : i ∈ c.irqPriority := by
  have hperm : c.irqPriority.Perm IrqSource.all := by
    simp only [Cfg.wellFormed, Bool.and_eq_true] at h
    obtain ⟨⟨⟨⟨-, hperm⟩, -⟩, -⟩, -⟩ := h
    exact List.isPerm_iff.mp hperm
  have hall : i ∈ IrqSource.all := by cases i <;> simp [IrqSource.all]
  exact hperm.mem_iff.mpr hall

/-- The configured order's first takeable source is taken where the draw says so: where one is takeable, interrupts are globally
enabled (R280, D48). -/
theorem interruptTaken_of_find? {s : State} {i : IrqSource} (hd : s.draw.takeIrq = true)
    (hf : s.cfg.irqPriority.find? (takeable s) = some i) : interruptTaken s = some i := by
  have henable : globalEnable s = true :=
    (globalEnable_iff s).mpr ((takeable_iff_canInterrupt s i).mp (List.find?_some hf)).1
  simp only [interruptTaken, urgentIrq, henable, hf, hd, if_true]

/-- Settles O13: the source taken is the first in the configured order that can cause a trap, and the order names every source that
can. -/
theorem interruptTakenIffTakeable : Obligations.InterruptTakenIffTakeable := by
  intro s hwf
  refine ⟨fun i hi => ?_, fun hd ⟨j, hj⟩ => ?_⟩
  · obtain ⟨hd, hfind, htake⟩ := interruptTaken_some hi
    obtain ⟨-, before, after, horder, hbefore⟩ := List.find?_eq_some_iff_append.mp hfind
    refine ⟨hd, (takeable_iff_canInterrupt s i).mp htake, before, after, horder, fun j hj hcan => ?_⟩
    have hearlier : takeable s j = true := (takeable_iff_canInterrupt s j).mpr hcan
    simpa [hearlier] using hbefore j hj
  · have hsome : (s.cfg.irqPriority.find? (takeable s)).isSome = true :=
      List.find?_isSome.mpr ⟨j, mem_irqPriority hwf j, (takeable_iff_canInterrupt s j).mpr hj⟩
    obtain ⟨i, hfind⟩ := Option.isSome_iff_exists.mp hsome
    exact ⟨i, interruptTaken_of_find? hd hfind⟩

end Sys2Proof.Machine
end

section
/-! PROOFS. The state after reset is legal (O55; 70_reset_and_hazards.md R320 to R323). -/

namespace Sys2Proof.Machine

/-- The reference configuration meets every check of R5 and R6 (log 1). -/
theorem wellFormed_reference : Cfg.reference.wellFormed = true := by decide

/-- Settles O55: the reset state of every well-formed configuration is legal, and the reference configuration is one. -/
theorem resetIsLegal : Obligations.ResetIsLegal :=
  ⟨fun _ => legal_resetOf, legal_resetOf wellFormed_reference⟩

end Sys2Proof.Machine
end
